-- ==== Sys2Proof/Syntax.lean ====
section
/-! DEFINITION. The instructions of spec/opcode_table.json: one row, one constructor (R96). -/

namespace Sys2Proof

/-- The instruction set. Every operand of the one instruction is an implicit register, so no bit of the
instruction encodes an operand and the constructor has no argument (R92, R94). -/
inductive Instr where
  /-- `ENCLU[EGETKEY]`: ENCLU executed with EAX = 01H (R90, R91, R110). -/
  | egetkey
deriving DecidableEq, Repr

end Sys2Proof
end

