-- ==== Sys2Proof/Word.lean ====
section
/-! DEFINITION. The word types of the model (spec/10_state.md R20, R41; spec/20_memory.md R46). -/

namespace Sys2Proof

/-- One byte of memory or of the instruction stream. -/
abbrev Byte := BitVec 8

/-- A general register, RFLAGS, the program counter or a linear address: GPR_WIDTH = 64 bits (R20). -/
abbrev Word := BitVec 64

end Sys2Proof
end

