-- ==== Sys2Proof/Decode.lean ====
section
/-! DEFINITION. Decoding of instruction bytes, total on any bytes, and the encoder (spec/30_encoding.md). -/

namespace Sys2Proof

/-- Why bytes are no instruction of this spec. -/
inductive DecodeError where
  /-- A prefixed form of ENCLU (R99). -/
  | prefixed
  /-- Any other bytes: an instruction outside the spec's scope (R5 (b)), or too few bytes for one. -/
  | otherOpcode
deriving DecidableEq, Repr

/-- The bytes R99 names as prefixes: operand size `66`, address size `67`, `F2`, `F3`, LOCK `F0`, the six segment
overrides, REX `40` to `4F` (PRESUMED: the spec names the last three kinds without their bytes, log entry 5). -/
def isPrefixByte (b : Byte) : Bool :=
  b == 0x66 || b == 0x67 || b == 0xF2 || b == 0xF3 || b == 0xF0 ||
  b == 0x2E || b == 0x36 || b == 0x3E || b == 0x26 || b == 0x64 || b == 0x65 ||
  b.extractLsb' 4 4 == 4

/-- The unprefixed three-byte form `0F 01 D7` (R90) at the head of the bytes, with the bytes after it. -/
def decodeUnprefixed : List Byte → Option (Instr × List Byte)
  | b0 :: b1 :: b2 :: rest =>
    if b0 == 0x0F && b1 == 0x01 && b2 == 0xD7 then some (.egetkey, rest) else none
  | _ => none

/-- The bytes left after every leading prefix byte. -/
def skipPrefixes : List Byte → List Byte
  | [] => []
  | b :: bs => if isPrefixByte b then skipPrefixes bs else b :: bs

/-- The decoder (R90, R96, R99): the instruction and the bytes after it, or the reason there is none. -/
def decode (bs : List Byte) : Except DecodeError (Instr × List Byte) :=
  match decodeUnprefixed bs with
  | some r => .ok r
  | none =>
    match decodeUnprefixed (skipPrefixes bs) with
    | some _ => .error .prefixed
    | none => .error .otherOpcode

/-- The bytes of an instruction, in increasing address order (R90, R96). -/
def encode : Instr → List Byte
  | .egetkey => [0x0F, 0x01, 0xD7]

/-- The longest instruction of the opcode table, in bytes (R90). -/
def maxInstrBytes : Nat := 3

/-- The value EAX must hold for the instruction to be selected (R91). -/
def leafSelector : Instr → BitVec 32
  | .egetkey => 0x00000001

/-- `n` bytes of a table word, the first byte most significant, as the table numbers them (R96). -/
def tableWordBytes : Nat → Nat → List Byte
  | 0, _ => []
  | n + 1, w => BitVec.ofNat 8 (w / 256 ^ n) :: tableWordBytes n w

/-- The bytes at increasing addresses of a table word of `nbits` bits: the word's own bytes, then zero bytes up to the
longest instruction. -/
def tableBytes (nbits w : Nat) : List Byte :=
  tableWordBytes (nbits / 8) w ++ List.replicate (maxInstrBytes - nbits / 8) 0

/-- The instruction the decoder reads from a word of spec/opcode_table.json. -/
def decodeTableWord (nbits w : Nat) : Option Instr :=
  match decode (tableBytes nbits w) with
  | .ok (i, _) => some i
  | .error _ => none

end Sys2Proof
end

