-- ==== Sys2Proof/Config.lean ====
section
/-! DEFINITION. What is fixed for one machine (spec/00_scope.md R6), the input record of derivekey (R43), and the
values the spec leaves open, each an opaque constant with no body. -/

namespace Sys2Proof

/-- The two execution modes of the model (R6, R25, R93). -/
inductive Mode where
  /-- 64-bit mode. -/
  | mode64
  /-- Protected or compatibility 32-bit mode. -/
  | prot32
deriving DecidableEq, Repr

/-- `PROC_SECRET`, the processor unique value of R37: a value of an abstract type, here a bare label that only
derivekey looks at (log entry 10). -/
structure ProcSecret where
  label : Nat
deriving DecidableEq, Repr

/-- The parameters of R6 that are fixed for one machine and that a claim quantifies over. They are plain data, and
State holds them, so that a statement about every state is a statement about every value of them. -/
structure Config where
  /-- `mode` (R6, R25). -/
  mode : Mode
  /-- `has_SGX1`: the processor enumerates SGX1 (R26). -/
  hasSgx1 : Bool
  /-- `provseal_checks_configsvn`, left open by the spec (R128; 92_eei_decisions.md D25). -/
  provsealChecksConfigsvn : Bool
  /-- `PROC_SECRET` (R37). -/
  procSecret : ProcSecret
deriving DecidableEq, Repr

/-- `TMP_KEYDEPENDENCIES`: the nineteen fields derivekey receives, in the spec's order (R43). -/
structure KeyDependencies where
  keyName        : BitVec 16
  isvFamilyId    : BitVec 128
  isvExtProdId   : BitVec 128
  isvProdId      : BitVec 16
  isvSvn         : BitVec 16
  sgxOwnerEpoch  : BitVec 128
  attributes     : BitVec 128
  attributesMask : BitVec 128
  mrEnclave      : BitVec 256
  mrSigner       : BitVec 256
  keyId          : BitVec 256
  sealKeyFuses   : BitVec 128
  cpuSvn         : BitVec 128
  padding        : BitVec 2816
  miscSelect     : BitVec 32
  miscMask       : BitVec 32
  keyPolicy      : BitVec 16
  configId       : BitVec 512
  configSvn      : BitVec 16
deriving DecidableEq, Repr

/-- `derivekey` (R165): a total function of the nineteen fields and of `PROC_SECRET`, and of nothing else; no law is
assumed of it (92_eei_decisions.md D22). -/
opaque Config.derivekey : ProcSecret → KeyDependencies → BitVec 128

/-- The open part of `cpusvn_beyond(requested, current)` (R124 (a)); Operands.cpusvnBeyond adds the one property the
spec lets a model assume (log entry 12). -/
opaque Config.cpusvnOrder : BitVec 128 → BitVec 128 → Bool

/-- The n-th draw of an error code: which member of `ErrSet` an execution reports (R129; 93_implementation_defined.md
U1, U2). -/
opaque Config.errorDraw : Nat → Nat

/-- `pf_error_code`, the draw of the error code a page fault pushes (R194; 92_eei_decisions.md D11). -/
opaque Config.pfErrorCode : Nat → Nat

end Sys2Proof
end

