-- ==== Sys2Proof/Machine/State.lean ====
section
/-! DEFINITION. The state of the machine (spec/10_state.md), its reasons to stop, and the state after reset. -/

namespace Sys2Proof.Machine

/-! ### The SGX control structures -/

/-- An abstract identifier of an SECS, with decidable equality (R28). -/
structure SecsId where
  id : Nat
deriving DecidableEq, Repr

/-- The page types of an EPCM entry: `PT_REG`, and the others R32 names from general knowledge. -/
inductive PageType where
  | ptSecs
  | ptTcs
  | ptReg
  | ptVa
  | ptTrim
deriving DecidableEq, Repr

/-- One EPCM entry: the nine fields the Operation reads (R31). -/
structure EpcmEntry where
  valid          : Bool
  blocked        : Bool
  pt             : PageType
  enclaveSecs    : SecsId
  pending        : Bool
  modified       : Bool
  enclaveAddress : Word
  r              : Bool
  w              : Bool
deriving DecidableEq, Repr

/-- An EPC page: the physical page number (physical address divided by 4096) and its EPCM entry (R62). A physical
page that is not listed is no EPC page. -/
structure EpcPage where
  frame : Nat
  entry : EpcmEntry
deriving DecidableEq, Repr

/-- The fields of an SECS that the Operation reads (R33). -/
structure SecsRecord where
  attributes   : BitVec 128
  miscSelect   : BitVec 32
  mrEnclave    : BitVec 256
  mrSigner     : BitVec 256
  isvProdId    : BitVec 16
  isvSvn       : BitVec 16
  isvExtProdId : BitVec 128
  isvFamilyId  : BitVec 128
  configId     : BitVec 512
  configSvn    : BitVec 16
  padding      : BitVec 2816
deriving DecidableEq, Repr

/-! ### Addresses -/

/-- `DS` (R24): base and limit, used in Prot32 only. -/
structure Segment where
  base  : BitVec 32
  limit : BitVec 32
deriving DecidableEq, Repr

/-- `CR_ELRANGE`: the linear range of the running enclave (R27). -/
structure Elrange where
  base : Word
  size : Word
deriving DecidableEq, Repr

/-- The two kinds of access `Translate` tells apart (R62). -/
inductive Access where
  | read
  | write
deriving DecidableEq, Repr

/-- One translation: accesses of kind `access` to linear page `page` go to physical page `frame`. -/
structure Mapping where
  page   : Nat
  access : Access
  frame  : Nat
deriving DecidableEq, Repr

/-- The processor's paging of linear addresses (R62): off, where `Translate` is the identity, or given by a list of
translations; a page and access that are not listed page-fault. -/
inductive Paging where
  | identity
  | mapped (translations : List Mapping)
deriving DecidableEq, Repr

/-- The linear range `[start, stop)` that holds the program text (92_eei_decisions.md D29; R230: `stop` is the end of
the text). The text's bytes stand in memory (R75). -/
structure ProgramText where
  start : Nat
  stop  : Nat
deriving DecidableEq, Repr

/-- Memory: a map from linear addresses to bytes (R46) as address and byte pairs in the canonical form Memory.wf. -/
abbrev Memory := List Host.Cell

/-! ### The state -/

/-- Everything the spec gives the machine; INVENTORY.md lists each field with the rule that names it. -/
structure State where
  /-- The fixed parameters: mode, has_SGX1, provseal_checks_configsvn, PROC_SECRET. -/
  cfg                 : Config
  rax                 : Word
  rbx                 : Word
  rcx                 : Word
  pc                  : Word
  rflags              : Word
  ds                  : Segment
  crEnclaveMode       : Bool
  crElrange           : Elrange
  crActiveSecs        : SecsId
  crSgxOwnerEpoch     : BitVec 128
  crSealFuses         : BitVec 128
  crCpuSvn            : BitVec 128
  ia32SgxLePubKeyHash : BitVec 256
  paging              : Paging
  epcm                : List EpcPage
  secs                : List (SecsId × SecsRecord)
  mem                 : Memory
  text                : ProgramText
  /-- The model's own counter of draws (log entry 11): how many error codes have been drawn. -/
  draws               : Nat
deriving DecidableEq, Repr

/-! ### Why a step stops -/

/-- The two exceptions the instruction raises (R190). The spec does not describe their delivery, so each ends the run,
with no change of state (R12, R195, R199). Both are safe: no claim about what runs after them can be proved. -/
inductive Fault where
  /-- `#GP(0)`: raised by EGETKEY for a bad operand address or a bad KEYREQUEST (R193). -/
  | gp0
  /-- `#PF`: raised by EGETKEY for an operand page (R194), with the operand's linear address and the open error code. -/
  | pageFault (la : Word) (errorCode : Nat)
deriving DecidableEq, Repr

/-- Situations the spec gives no meaning (R12 `Refuse`); all are safe. -/
inductive Refusal where
  /-- Raised by an arm of exec whose instruction has no meaning yet; no arm raises it. -/
  | notModelled (mnemonic : String)
  /-- Raised by EGETKEY outside an enclave or without SGX1 (R98). -/
  | notInEnclave
  /-- Raised by EGETKEY when EAX is not 01H: another leaf of ENCLU (R97). -/
  | otherLeaf
  /-- Raised by step on a prefixed form of ENCLU (R99). -/
  | prefixed
  /-- Raised by step on bytes that are no instruction of the spec (R5 (b)). -/
  | otherOpcode
  /-- Raised by EGETKEY for an EINITTOKEN key request of an enclave with the attribute and another signer (R127). -/
  | einittokenMrsigner
  /-- Raised by EGETKEY when it would complete and `pc + 3` wraps or leaves the address space (R22). -/
  | pcOutOfRange
  /-- Raised by step when the instruction completes and OUTPUTDATA overlaps the program text (R81). -/
  | textOverlapsOutput
  /-- Raised by step at the end of the program text: the run has ended (R230). -/
  | endOfText
  /-- Raised by step when `pc` is outside the program text (R77, R230). -/
  | pcOutsideText
deriving DecidableEq, Repr

/-- The outcome of an instruction or of a step (R12). -/
abbrev Result := Host.Outcome State Fault Refusal

/-! ### Reset -/

/-- The machine after reset. The spec states no reset value (R47, R220): `crEnclaveMode` and `hasSgx1` are as the spec's
launch has them (R221, log entry 16), the x86 registers hold the family's reset values (PRESUMED, log entry 15), and
everything else is zero or empty (DESIGN CHOICE, log entries 16 to 19). -/
def State.reset : State where
  cfg                 := { mode := .mode64, hasSgx1 := true, provsealChecksConfigsvn := false, procSecret := ⟨0⟩ }
  rax                 := 0
  rbx                 := 0
  rcx                 := 0
  pc                  := 0xFFFFFFF0
  rflags              := 0x2
  ds                  := { base := 0, limit := 0xFFFF }
  crEnclaveMode       := true
  crElrange           := { base := 0, size := 0 }
  crActiveSecs        := ⟨0⟩
  crSgxOwnerEpoch     := 0
  crSealFuses         := 0
  crCpuSvn            := 0
  ia32SgxLePubKeyHash := 0xD4F8C05909F9BB3BC4916D99F2B3735D6CFBE8BA8B3B413DA6053E051270B7AC
  paging              := .mapped []
  epcm                := []
  secs                := []
  mem                 := []
  text                := { start := 0, stop := 0 }
  draws               := 0

end Sys2Proof.Machine
end

