-- ==== Sys2Proof/Machine/Ops.lean ====
section
/-! DEFINITION. The named operations over memory, registers, addresses and pages that the meanings share
(spec/20_memory.md), the raising of an exception (spec/60_exceptions.md), and the fetch of an instruction. -/

namespace Sys2Proof.Machine

/-! ### Memory: bytes -/

/-- What an address that is not listed reads as (DESIGN CHOICE, log entry 18). -/
def unlistedByte : Byte := 0

/-- One byte of memory (R46). -/
def Memory.read : Memory → Nat → Byte
  | [], _ => unlistedByte
  | (k, b) :: m, a => if k == a then b else Memory.read m a

/-- Put a cell in front of `m`, unless it holds what an unlisted address reads as. -/
def Memory.putCell (a : Nat) (v : Byte) (m : Memory) : Memory :=
  if v == unlistedByte then m else (a, v) :: m

/-- Store one byte, keeping the canonical form. -/
def Memory.write : Memory → Nat → Byte → Memory
  | [], a, v => Memory.putCell a v []
  | (k, b) :: m, a, v =>
    if a < k then Memory.putCell a v ((k, b) :: m)
    else if a == k then Memory.putCell a v m
    else (k, b) :: Memory.write m a v

/-- The canonical form: addresses strictly rising, and no entry equal to what an unlisted address reads as. -/
def Memory.wf : Memory → Bool
  | [] => true
  | (k, b) :: m => b != unlistedByte && m.all (fun c => k < c.1) && Memory.wf m

/-! ### Memory: wider accesses, little-endian (R10, R66) -/

/-- `MemRead(a, n)`: the `n` bytes from `a` as a number, the byte at `a` least significant (R10). -/
def Memory.readLE (m : Memory) : Nat → Nat → Nat
  | _, 0 => 0
  | a, n + 1 => (m.read a).toNat + 256 * Memory.readLE m (a + 1) n

/-- `MemWrite(a, n, v)`: store the low `n` bytes of `v` from `a`, the least significant at `a` (R10). -/
def Memory.writeLE (m : Memory) : Nat → Nat → Nat → Memory
  | _, 0, _ => m
  | a, n + 1, v => Memory.writeLE (m.write a (BitVec.ofNat 8 v)) (a + 1) n (v / 256)

/-- The `n` bytes from `a`, in increasing address order. -/
def Memory.readBytes (m : Memory) : Nat → Nat → List Byte
  | _, 0 => []
  | a, n + 1 => m.read a :: Memory.readBytes m (a + 1) n

/-- Store a list of bytes from `a` on, in increasing address order. -/
def Memory.writeBytes (m : Memory) : Nat → List Byte → Memory
  | _, [] => m
  | a, b :: bs => Memory.writeBytes (m.write a b) (a + 1) bs

/-! ### Registers and flags -/

/-- `EAX`: bits 31:0 of RAX (R21). -/
def State.eax (s : State) : BitVec 32 := s.rax.setWidth 32

/-- Write all 64 bits of RAX (R10, R21). -/
def State.setRax (s : State) (v : Word) : State := { s with rax := v }

/-- Write RFLAGS. -/
def State.setRflags (s : State) (v : Word) : State := { s with rflags := v }

/-- Write the program counter. -/
def State.setPc (s : State) (v : Word) : State := { s with pc := v }

/-- Replace memory. -/
def State.setMem (s : State) (m : Memory) : State := { s with mem := m }

/-- Set the counter of draws. -/
def State.setDraws (s : State) (n : Nat) : State := { s with draws := n }

/-- Set the range of the program text. -/
def State.setText (s : State) (t : ProgramText) : State := { s with text := t }

/-! ### Addresses -/

/-- An address is canonical when bits 63:47 are all equal (R61). -/
def canonical (a : Word) : Bool :=
  a.extractLsb' 47 17 == 0 || a.extractLsb' 47 17 == BitVec.allOnes 17

/-- The effective address in a register: all 64 bits in Mode64, the low 32 in Prot32 (R60). -/
def State.effectiveAddress (s : State) (r : Word) : Word :=
  match s.cfg.mode with
  | .mode64 => r
  | .prot32 => (r.setWidth 32).setWidth 64

/-- The linear address of the operand whose effective address a register holds (R60). -/
def State.linearAddress (s : State) (r : Word) : Word :=
  match s.cfg.mode with
  | .mode64 => r
  | .prot32 => (s.ds.base + r.setWidth 32).setWidth 64

/-- The address-validity test of an `n`-byte operand (R61): its first and last byte canonical in Mode64, its last
byte inside the DS limit in Prot32. -/
def State.addressValid (s : State) (r : Word) (n : Nat) : Bool :=
  match s.cfg.mode with
  | .mode64 => canonical (s.effectiveAddress r) && canonical (s.effectiveAddress r + BitVec.ofNat 64 (n - 1))
  | .prot32 => (s.effectiveAddress r).toNat + n - 1 ≤ s.ds.limit.toNat

/-- `Within(CR_ELRANGE, la, n)`: the whole operand lies in the range, in unbounded integers (R27). -/
def Elrange.within (e : Elrange) (la : Word) (n : Nat) : Bool :=
  e.base.toNat ≤ la.toNat && la.toNat + n ≤ e.base.toNat + e.size.toNat

/-- The three address tests of an operand (R112, R116): valid, aligned, inside the enclave. -/
def State.addressAccepted (s : State) (r : Word) (align n : Nat) : Bool :=
  s.addressValid r n && (s.linearAddress r).toNat % align == 0 && s.crElrange.within (s.linearAddress r) n

/-! ### Pages -/

/-- `PAGE_SIZE` (R6, R64). -/
def pageSize : Nat := 4096

/-- The linear address with its low 12 bits cleared: `la & ~0FFFH` (R64). -/
def pageBase (la : Word) : Word := la &&& ~~~0xFFF

/-- `Translate(la, acc)` (R62): the physical address, or none for a page fault. -/
def State.translate (s : State) (la : Word) (acc : Access) : Option Nat :=
  match s.paging with
  | .identity => some la.toNat
  | .mapped ms =>
    (ms.find? (fun m => m.page == la.toNat / pageSize && m.access == acc)).map
      (fun m => m.frame * pageSize + la.toNat % pageSize)

/-- `EPCMof(pa)` where `IsEPC(pa)` (R62), and none where `pa` is no EPC address. -/
def State.epcmOf (s : State) (pa : Nat) : Option EpcmEntry :=
  (s.epcm.find? (fun p => p.frame == pa / pageSize)).map (·.entry)

/-- `EPCM(la)` for an access (R63): none where the translation page-faults or the address is no EPC address. -/
def State.epcmAt (s : State) (la : Word) (acc : Access) : Option EpcmEntry :=
  (s.translate la acc).bind s.epcmOf

/-- The permission an access needs: `R` for the read, `W` for the write (R115, R119). -/
def EpcmEntry.permits (e : EpcmEntry) : Access → Bool
  | .read => e.r
  | .write => e.w

/-- The page tests of an operand (R113 to R115, R117 to R119). -/
def State.pageAccepted (s : State) (la : Word) (acc : Access) : Bool :=
  match s.epcmAt la acc with
  | none => false
  | some e =>
    e.valid && !e.blocked && e.pt == .ptReg && e.enclaveSecs == s.crActiveSecs && !e.pending && !e.modified &&
    e.enclaveAddress == pageBase la && e.permits acc

/-! ### The SECS -/

/-- What the total map `SECS` gives for an identifier that is not listed (DESIGN CHOICE, log entry 19). -/
def unlistedSecs : SecsRecord where
  attributes   := 0
  miscSelect   := 0
  mrEnclave    := 0
  mrSigner     := 0
  isvProdId    := 0
  isvSvn       := 0
  isvExtProdId := 0
  isvFamilyId  := 0
  configId     := 0
  configSvn    := 0
  padding      := 0

/-- `SECS(CR_ACTIVE_SECS)`, the SECS of the running enclave (R28, R33). -/
def State.currentSecs (s : State) : SecsRecord :=
  match s.secs.find? (fun p => p.1 == s.crActiveSecs) with
  | some p => p.2
  | none => unlistedSecs

/-! ### Exceptions -/

/-- Taking an exception (R12, R195, R199): the run ends in the fault, with no change of state. The spec describes no
entry, no handler and no return from one (R199, R200). -/
def raise (f : Fault) : Result := .fault f

/-- `raise PF(la)`: the faulting address is the operand's, the error code a draw (R194). -/
def State.pageFaultAt (s : State) (la : Word) : Fault := .pageFault la (Config.pfErrorCode s.draws)

/-- The first fault whose condition holds, in the order given (R196). -/
def firstFault : List (Bool × Fault) → Option Fault
  | [] => none
  | (holds, f) :: rest => if holds then some f else firstFault rest

/-! ### Completion -/

/-- `pc + 3` neither wraps nor leaves the mode's address space (R22). -/
def State.pcAdvances (s : State) (n : Nat) : Bool :=
  match s.cfg.mode with
  | .mode64 => s.pc.toNat + n < 2 ^ 64 && canonical (s.pc + BitVec.ofNat 64 n)
  | .prot32 => s.pc.toNat + n ≤ 2 ^ 32 - 1

/-- Complete an instruction of `n` bytes (R22): `pc` moves past it. -/
def State.retire (s : State) (n : Nat) : Result :=
  if s.pcAdvances n then .next (s.setPc (s.pc + BitVec.ofNat 64 n)) else .refused .pcOutOfRange

/-! ### Fetch -/

/-- The bytes of the program text from `pc` to its end (R22, R66, R75): the spec puts no limit on the prefixes before
an opcode (R99). -/
def State.fetchBytes (s : State) : List Byte := s.mem.readBytes s.pc.toNat (s.text.stop - s.pc.toNat)

/-- `pc` addresses a byte of the program text (R77, R230). -/
def State.pcInText (s : State) : Bool := s.text.start ≤ s.pc.toNat && s.pc.toNat < s.text.stop

/-- The program text overlaps the `n` bytes at `la` (R81). -/
def ProgramText.overlaps (t : ProgramText) (la n : Nat) : Bool :=
  t.start < t.stop && t.start < la + n && la < t.stop

/-- The refusal for bytes that decode to no instruction (R99). -/
def refusalOf : DecodeError → Refusal
  | .prefixed => .prefixed
  | .otherOpcode => .otherOpcode

end Sys2Proof.Machine
end

