-- ==== Sys2Proof/Machine/Flags.lean ====
section
/-! DEFINITION. The status flags of RFLAGS and the one flag computation of the spec (spec/10_state.md R23). -/

namespace Sys2Proof.Machine

/-- The six status flags the instruction writes (R23). -/
inductive Flag where
  | cf
  | pf
  | af
  | zf
  | sf
  | of
deriving DecidableEq, Repr

/-- The bit of RFLAGS that holds a flag (R23, G8). -/
def Flag.pos : Flag → Nat
  | .cf => 0
  | .pf => 2
  | .af => 4
  | .zf => 6
  | .sf => 7
  | .of => 11

/-- `flag[f]` (R10). -/
def State.flag (s : State) (f : Flag) : Bool := s.rflags.getLsbD f.pos

/-- The bits of RFLAGS that the six flags occupy. -/
def statusMask : Word := 0x8D5

/-- RFLAGS after a completion (R23, R129, R130): ZF as given, the other five status flags clear, every other bit as it
was. -/
def completionFlags (old : Word) (zf : Bool) : Word :=
  (old &&& ~~~statusMask) ||| (if zf then 0x40 else 0)

end Sys2Proof.Machine
end

