-- ==== Sys2Proof/Machine/Operands.lean ====
section
/-! DEFINITION. The operands of EGETKEY: their addresses and sizes, the KEYREQUEST structure, its fields and bits, the
key names, the error codes, and the bits of SECS.ATTRIBUTES (spec/10_state.md, spec/20_memory.md). -/

namespace Sys2Proof.Machine

/-! ### Sizes (R6) -/

/-- `KEYREQUEST_SIZE`. -/
def keyrequestSize : Nat := 512
/-- `KEYREQUEST_ALIGN` (R67). -/
def keyrequestAlign : Nat := 512
/-- `OUTPUT_SIZE`. -/
def outputSize : Nat := 16
/-- `OUTPUT_ALIGN` (R68). -/
def outputAlign : Nat := 16

/-- `LA_REQ`: the linear address of KEYREQUEST (R11, R60). -/
def State.laReq (s : State) : Word := s.linearAddress s.rbx

/-- `LA_OUT`: the linear address of OUTPUTDATA (R11, R60). -/
def State.laOut (s : State) : Word := s.linearAddress s.rcx

/-! ### KEYREQUEST (R38) -/

/-- The fields of KEYREQUEST, with both reserved regions. -/
structure KeyRequest where
  keyName       : BitVec 16
  keyPolicy     : BitVec 16
  isvSvn        : BitVec 16
  reserved1     : BitVec 16
  cpuSvn        : BitVec 128
  attributeMask : BitVec 128
  keyId         : BitVec 256
  miscMask      : BitVec 32
  configSvn     : BitVec 16
  reserved2     : BitVec 3472
deriving DecidableEq, Repr

/-- `FieldRead(la, off, n)` as a value of the field's width (R10). -/
def Memory.field (m : Memory) (la off n w : Nat) : BitVec w := BitVec.ofNat w (m.readLE (la + off) n)

/-- Parse the 512 bytes at `la` (R38, R70). -/
def Memory.keyRequest (m : Memory) (la : Nat) : KeyRequest where
  keyName       := m.field la 0 2 16
  keyPolicy     := m.field la 2 2 16
  isvSvn        := m.field la 4 2 16
  reserved1     := m.field la 6 2 16
  cpuSvn        := m.field la 8 16 128
  attributeMask := m.field la 24 16 128
  keyId         := m.field la 40 32 256
  miscMask      := m.field la 72 4 32
  configSvn     := m.field la 76 2 16
  reserved2     := m.field la 78 434 3472

/-- `REQ`: the request the instruction reads, once, before anything is written (R70, R73). -/
def State.request (s : State) : KeyRequest := s.mem.keyRequest s.laReq.toNat

/-- Bit 0: include MRENCLAVE (R39). -/
def KeyRequest.policyMrEnclave (r : KeyRequest) : Bool := r.keyPolicy.getLsbD 0
/-- Bit 1: include MRSIGNER (R39). -/
def KeyRequest.policyMrSigner (r : KeyRequest) : Bool := r.keyPolicy.getLsbD 1
/-- Bit 2: do NOT include ISVPRODID (R39). -/
def KeyRequest.policyNoIsvProdId (r : KeyRequest) : Bool := r.keyPolicy.getLsbD 2
/-- Bit 3: include CONFIGID and the requested CONFIGSVN (R39). -/
def KeyRequest.policyConfigId (r : KeyRequest) : Bool := r.keyPolicy.getLsbD 3
/-- Bit 4: include ISVFAMILYID (R39). -/
def KeyRequest.policyIsvFamilyId (r : KeyRequest) : Bool := r.keyPolicy.getLsbD 4
/-- Bit 5: include ISVEXTPRODID (R39). -/
def KeyRequest.policyIsvExtProdId (r : KeyRequest) : Bool := r.keyPolicy.getLsbD 5

/-- The "New Policy bits" 5:2 (R121). -/
def newPolicyBits : BitVec 16 := 0x003C

/-! ### Key names (R40) -/

/-- The five key names. -/
inductive KeyName where
  | seal
  | report
  | einittoken
  | provision
  | provisionSeal
deriving DecidableEq, Repr

/-- The number of a key name (R40, G4). -/
def KeyName.code : KeyName → BitVec 16
  | .einittoken => 0
  | .provision => 1
  | .provisionSeal => 2
  | .report => 3
  | .seal => 4

/-- The CASE label a KEYNAME selects; none is the DEFAULT arm (R40, R123). -/
def keyNameOf (n : BitVec 16) : Option KeyName :=
  if n == KeyName.code .seal then some .seal
  else if n == KeyName.code .report then some .report
  else if n == KeyName.code .einittoken then some .einittoken
  else if n == KeyName.code .provision then some .provision
  else if n == KeyName.code .provisionSeal then some .provisionSeal
  else none

/-! ### Error codes (R45) -/

/-- The four error codes of Table 40-65. -/
inductive ErrorCode where
  | invalidAttribute
  | invalidCpuSvn
  | invalidIsvSvn
  | invalidKeyName
deriving DecidableEq, Repr

/-- The value RAX returns (R45, G2). -/
def ErrorCode.value : ErrorCode → Word
  | .invalidAttribute => 2
  | .invalidCpuSvn => 32
  | .invalidIsvSvn => 64
  | .invalidKeyName => 256

/-! ### SECS.ATTRIBUTES (R34) -/

/-- ATTRIBUTES.PROVISIONKEY, bit 4. -/
def SecsRecord.provisionKey (r : SecsRecord) : Bool := r.attributes.getLsbD 4
/-- ATTRIBUTES.EINITTOKEN_KEY, written LAUNCHKEY in the Operation, bit 5. -/
def SecsRecord.einittokenKey (r : SecsRecord) : Bool := r.attributes.getLsbD 5
/-- ATTRIBUTES.KSS, bit 7. -/
def SecsRecord.kss (r : SecsRecord) : Bool := r.attributes.getLsbD 7

/-! ### The comparisons of security version numbers (R124) -/

/-- `cpusvn_beyond(requested, current)`: an open relation of which only "the current one is not beyond itself" is
assumed (R124 (a), log entry 12). -/
def cpusvnBeyond (requested current : BitVec 128) : Bool :=
  requested != current && Config.cpusvnOrder requested current

/-- `BeyondCPU` (R124 (a)). -/
def State.beyondCpu (s : State) (r : KeyRequest) : Bool := cpusvnBeyond r.cpuSvn s.crCpuSvn
/-- `BeyondISV`, unsigned (R124 (b)). -/
def beyondIsv (r : KeyRequest) (c : SecsRecord) : Bool := c.isvSvn < r.isvSvn
/-- `BeyondCFG`, unsigned (R124 (c)). -/
def beyondCfg (r : KeyRequest) (c : SecsRecord) : Bool := c.configSvn < r.configSvn

end Sys2Proof.Machine
end

