-- ==== Sys2Proof/Machine/Enclu.lean ====
section
/-! DEFINITION. The meaning of ENCLU[EGETKEY] (spec/40_enclu_egetkey.md, spec/41_egetkey_key_derivation.md). -/

namespace Sys2Proof.Machine

/-! ### Faults (R112 to R121, in the order of R196) -/

/-- Reserved space of the request is zero: both reserved regions and KEYPOLICY bits 15:6 (R120). -/
def KeyRequest.reservedClear (r : KeyRequest) : Bool :=
  r.reserved1 == 0 && r.reserved2 == 0 && r.keyPolicy.extractLsb' 6 10 == 0

/-- The request uses a new policy bit or a CONFIGSVN although KSS is off (R121). -/
def kssViolated (r : KeyRequest) (c : SecsRecord) : Bool :=
  !c.kss && ((r.keyPolicy &&& newPolicyBits) != 0 || r.configSvn != 0)

/-- Every fault condition of the instruction, in the order in which they are reported (R196). -/
def State.egetkeyFaults (s : State) : List (Bool × Fault) :=
  [ (!s.addressAccepted s.rbx keyrequestAlign keyrequestSize, .gp0),
    (!s.pageAccepted s.laReq .read, s.pageFaultAt s.laReq),
    (!s.addressAccepted s.rcx outputAlign outputSize, .gp0),
    (!s.pageAccepted s.laOut .write, s.pageFaultAt s.laOut),
    (!s.request.reservedClear, .gp0),
    (kssViolated s.request s.currentSecs, .gp0) ]

/-! ### Error checks (R125 to R128) -/

/-- The list `[c]` where a check fails, else the empty list. -/
def failing (check : Bool) (c : ErrorCode) : List ErrorCode := if check then [c] else []

/-- `ErrSet`: the error codes whose condition holds in the arm of a key name. -/
def State.errSet (s : State) : KeyName → List ErrorCode
  | .seal =>
    failing (s.beyondCpu s.request) .invalidCpuSvn ++
    failing (beyondIsv s.request s.currentSecs || beyondCfg s.request s.currentSecs) .invalidIsvSvn
  | .report => []
  | .einittoken =>
    failing (!s.currentSecs.einittokenKey) .invalidAttribute ++
    failing (s.beyondCpu s.request) .invalidCpuSvn ++
    failing (beyondIsv s.request s.currentSecs) .invalidIsvSvn
  | .provision =>
    failing (!s.currentSecs.provisionKey) .invalidAttribute ++
    failing (s.beyondCpu s.request) .invalidCpuSvn ++
    failing (beyondIsv s.request s.currentSecs) .invalidIsvSvn
  | .provisionSeal =>
    failing (!s.currentSecs.provisionKey) .invalidAttribute ++
    failing (s.beyondCpu s.request) .invalidCpuSvn ++
    failing (beyondIsv s.request s.currentSecs ||
      s.cfg.provsealChecksConfigsvn && beyondCfg s.request s.currentSecs) .invalidIsvSvn

/-- `Refused(REQ, S)`: an EINITTOKEN request of an enclave that has the attribute but another signer than
IA32_SGXLEPUBKEYHASH (R127). -/
def State.launchSignerUnknown (s : State) : KeyName → Bool
  | .einittoken => s.currentSecs.einittokenKey && s.currentSecs.mrSigner != s.ia32SgxLePubKeyHash
  | .seal | .report | .provision | .provisionSeal => false

/-- The member of the set `e :: es` that draw number `n` picks; every member is some draw's (R129). -/
def drawError (e : ErrorCode) : List ErrorCode → Nat → ErrorCode
  | [], _ => e
  | e' :: es, n => if n == 0 then e else drawError e' es (n - 1)

/-! ### Key derivation data (R150 to R164) -/

/-- `REQUIRED_SEALING_MASK` (R44). -/
def requiredSealingMask : BitVec 128 := 0x3

/-- `HARDCODED_PKCS1_5_PADDING` (R163). -/
def hardcodedPadding : BitVec 2816 :=
  BitVec.ofNat 2816 (0x0100 + (2 ^ 2640 - 1) * 2 ^ 16 + 0x2004000501020403650148866009060D30313000 * 2 ^ 2656)

/-- `TMP_ATTRIBUTES` (R122). -/
def tmpAttributes (r : KeyRequest) (c : SecsRecord) : BitVec 128 :=
  (r.attributeMask ||| requiredSealingMask) &&& c.attributes

/-- `TMP_MISCSELECT` (R122). -/
def tmpMiscSelect (r : KeyRequest) (c : SecsRecord) : BitVec 32 := r.miscMask &&& c.miscSelect

/-- A policy-selected temporary (R152): the value where it is asked for, else 0. -/
def included {w : Nat} (asked : Bool) (v : BitVec w) : BitVec w := if asked then v else 0

/-- The SEAL_KEY arm (R156). -/
def State.sealDependencies (s : State) (r : KeyRequest) (c : SecsRecord) : KeyDependencies where
  keyName        := KeyName.code .seal
  isvFamilyId    := included r.policyIsvFamilyId c.isvFamilyId
  isvExtProdId   := included r.policyIsvExtProdId c.isvExtProdId
  isvProdId      := included (!r.policyNoIsvProdId) c.isvProdId
  isvSvn         := r.isvSvn
  sgxOwnerEpoch  := s.crSgxOwnerEpoch
  attributes     := tmpAttributes r c
  attributesMask := r.attributeMask
  mrEnclave      := included r.policyMrEnclave c.mrEnclave
  mrSigner       := included r.policyMrSigner c.mrSigner
  keyId          := r.keyId
  sealKeyFuses   := s.crSealFuses
  cpuSvn         := r.cpuSvn
  padding        := c.padding
  miscSelect     := tmpMiscSelect r c
  miscMask       := ~~~r.miscMask
  keyPolicy      := r.keyPolicy
  configId       := included r.policyConfigId c.configId
  configSvn      := included r.policyConfigId r.configSvn

/-- The REPORT_KEY arm (R157). -/
def State.reportDependencies (s : State) (r : KeyRequest) (c : SecsRecord) : KeyDependencies where
  keyName        := KeyName.code .report
  isvFamilyId    := 0
  isvExtProdId   := 0
  isvProdId      := 0
  isvSvn         := 0
  sgxOwnerEpoch  := s.crSgxOwnerEpoch
  attributes     := c.attributes
  attributesMask := 0
  mrEnclave      := c.mrEnclave
  mrSigner       := 0
  keyId          := r.keyId
  sealKeyFuses   := s.crSealFuses
  cpuSvn         := s.crCpuSvn
  padding        := hardcodedPadding
  miscSelect     := c.miscSelect
  miscMask       := 0
  keyPolicy      := 0
  configId       := c.configId
  configSvn      := c.configSvn

/-- The EINITTOKEN_KEY arm (R158). -/
def State.einittokenDependencies (s : State) (r : KeyRequest) (c : SecsRecord) : KeyDependencies where
  keyName        := KeyName.code .einittoken
  isvFamilyId    := 0
  isvExtProdId   := 0
  isvProdId      := c.isvProdId
  isvSvn         := r.isvSvn
  sgxOwnerEpoch  := s.crSgxOwnerEpoch
  attributes     := tmpAttributes r c
  attributesMask := 0
  mrEnclave      := 0
  mrSigner       := c.mrSigner
  keyId          := r.keyId
  sealKeyFuses   := s.crSealFuses
  cpuSvn         := r.cpuSvn
  padding        := c.padding
  miscSelect     := tmpMiscSelect r c
  miscMask       := 0
  keyPolicy      := 0
  configId       := 0
  configSvn      := 0

/-- The PROVISION_KEY arm (R159). -/
def provisionDependencies (r : KeyRequest) (c : SecsRecord) : KeyDependencies where
  keyName        := KeyName.code .provision
  isvFamilyId    := 0
  isvExtProdId   := 0
  isvProdId      := c.isvProdId
  isvSvn         := r.isvSvn
  sgxOwnerEpoch  := 0
  attributes     := tmpAttributes r c
  attributesMask := r.attributeMask
  mrEnclave      := 0
  mrSigner       := c.mrSigner
  keyId          := 0
  sealKeyFuses   := 0
  cpuSvn         := r.cpuSvn
  padding        := c.padding
  miscSelect     := tmpMiscSelect r c
  miscMask       := ~~~r.miscMask
  keyPolicy      := 0
  configId       := 0
  configSvn      := 0

/-- The PROVISION_SEAL_KEY arm (R160). -/
def State.provisionSealDependencies (s : State) (r : KeyRequest) (c : SecsRecord) : KeyDependencies where
  keyName        := KeyName.code .provisionSeal
  isvFamilyId    := included r.policyIsvFamilyId c.isvFamilyId
  isvExtProdId   := included r.policyIsvExtProdId c.isvExtProdId
  isvProdId      := included (!r.policyNoIsvProdId) c.isvProdId
  isvSvn         := r.isvSvn
  sgxOwnerEpoch  := 0
  attributes     := tmpAttributes r c
  attributesMask := r.attributeMask
  mrEnclave      := 0
  mrSigner       := c.mrSigner
  keyId          := 0
  sealKeyFuses   := s.crSealFuses
  cpuSvn         := r.cpuSvn
  padding        := c.padding
  miscSelect     := tmpMiscSelect r c
  miscMask       := ~~~r.miscMask
  keyPolicy      := r.keyPolicy
  configId       := included r.policyConfigId c.configId
  configSvn      := included r.policyConfigId r.configSvn

/-- `Dependencies(REQ, S, TMP_ATTRIBUTES, TMP_MISCSELECT)` (R154). -/
def State.dependencies (s : State) : KeyName → KeyDependencies
  | .seal => s.sealDependencies s.request s.currentSecs
  | .report => s.reportDependencies s.request s.currentSecs
  | .einittoken => s.einittokenDependencies s.request s.currentSecs
  | .provision => provisionDependencies s.request s.currentSecs
  | .provisionSeal => s.provisionSealDependencies s.request s.currentSecs

/-- `TMP_OUTPUTKEY` (R165). -/
def State.outputKey (s : State) (k : KeyName) : BitVec 128 :=
  Config.derivekey s.cfg.procSecret (s.dependencies k)

/-! ### Completion (R129 to R131) and the instruction (R110) -/

/-- The error-code return (R129): one member of the set in RAX, ZF set, memory untouched. -/
def State.returnError (s : State) (e : ErrorCode) (es : List ErrorCode) : Result :=
  (((s.setRax (drawError e es (Config.errorDraw s.draws)).value).setRflags
    (completionFlags s.rflags true)).setDraws (s.draws + 1)).retire 3

/-- The successful return (R130): the key at OUTPUTDATA, RAX and ZF clear. -/
def State.returnKey (s : State) (k : KeyName) : Result :=
  (((s.setMem (s.mem.writeLE s.laOut.toNat outputSize (s.outputKey k).toNat)).setRax 0).setRflags
    (completionFlags s.rflags false)).retire 3

/-- The CASE on the key name (R123, R127, R129, R130, R131). -/
def State.dispatchKeyName (s : State) : Result :=
  match keyNameOf s.request.keyName with
  | none => s.returnError .invalidKeyName []
  | some k =>
    if s.launchSignerUnknown k then .refused .einittokenMrsigner
    else
      match s.errSet k with
      | e :: es => s.returnError e es
      | [] => s.returnKey k

/-- ENCLU[EGETKEY] (R110, R111). -/
def execEgetkey (s : State) : Result :=
  if !(s.cfg.hasSgx1 && s.crEnclaveMode) then .refused .notInEnclave
  else if s.eax != leafSelector .egetkey then .refused .otherLeaf
  else
    match firstFault s.egetkeyFaults with
    | some f => raise f
    | none => s.dispatchKeyName

end Sys2Proof.Machine
end

