-- ==== Sys2Proof/Machine/Text.lean ====
section
/-! DEFINITION. What a step does around an instruction: the program text (spec/20_memory.md R77, R81;
spec/70_reset_and_hazards.md R228, R230) and the loading of a program. -/

namespace Sys2Proof.Machine

/-- The refusal of a step whose `pc` is not in the text: the end of the run, or a place where no text is (R230). -/
def State.outsideText (s : State) : Refusal :=
  if s.text.start ≤ s.pc.toNat && s.pc.toNat == s.text.stop then .endOfText else .pcOutsideText

/-- A completion stands unless OUTPUTDATA overlaps the program text (R81; DESIGN CHOICE on faults, log entry 7). -/
def State.guardText (s : State) : Result → Result
  | .next t => if s.text.overlaps s.laOut.toNat outputSize then .refused .textOverlapsOutput else .next t
  | .fault f => .fault f
  | .refused r => .refused r

/-- Load bytes as the program text, at `pc`. -/
def State.loadText (s : State) (bs : List Byte) : State :=
  (s.setMem (s.mem.writeBytes s.pc.toNat bs)).setText ⟨s.pc.toNat, s.pc.toNat + bs.length⟩

/-- Put an instruction's leaf number in EAX, leaving RAX bits 63:32 (R91). -/
def State.selectLeaf (s : State) : Option Instr → State
  | some i => s.setRax ((s.rax &&& ~~~0xFFFFFFFF) ||| (leafSelector i).setWidth 64)
  | none => s

end Sys2Proof.Machine
end

