-- ==== Sys2Proof/Machine/Step.lean ====
section
/-! DEFINITION. One step: fetch the instruction at `pc` from the program text, decode it, execute it. -/

namespace Sys2Proof.Machine

/-- One step. The text is where `pc` runs (R77, R230), bytes that are no instruction are refused by name (R99), and a
completion whose OUTPUTDATA overlaps the text is refused (R81). -/
def step (s : State) : Host.Outcome State Fault Refusal :=
  if s.pcInText then
    match decode s.fetchBytes with
    | .error e => .refused (refusalOf e)
    | .ok (i, _) => s.guardText (exec i s)
  else .refused s.outsideText

/-- `s` with an instruction of the opcode table loaded as the program at `pc` and selected: the text is that
instruction alone, its bytes stand in memory, and EAX holds its leaf number (R91; log entry 17). -/
def State.withFetchWord (s : State) (nbits w : Nat) : State :=
  (s.loadText (tableBytes nbits w)).selectLeaf (decodeTableWord nbits w)

end Sys2Proof.Machine
end

