-- ==== Sys2Proof/Safety.lean ====
section
/-! DEFINITION. The terms in which claims about the machine are stated: the launch premises of
spec/70_reset_and_hazards.md R222, the conditions under which the instruction runs without a fault, what two states
must share to yield the same key, and the invariant of the machine. Each condition is written out from its rule, not
from the meaning that tests it. -/

namespace Sys2Proof.Machine

/-! ### Launch premises (R222)

`NoConcurrentWriter` speaks of other agents, of which the model has none (log entry 13), so it holds of every step. -/

/-- `InEnclave`: SGX1 is there and the processor executes inside an enclave. -/
def State.InEnclave (s : State) : Prop := s.cfg.hasSgx1 = true ∧ s.crEnclaveMode = true

/-- `LeafSelected`: EAX = 01H. -/
def State.LeafSelected (s : State) : Prop := s.rax.toNat % 2 ^ 32 = 1

/-- `SecsPresent`: the SECS of the running enclave is listed, so `currentSecs` holds its values. -/
def State.SecsPresent (s : State) : Prop := ∃ p ∈ s.secs, p.1 = s.crActiveSecs

/-- `ElrangeSane`: `ELRANGE.BASE + ELRANGE.SIZE` does not wrap. -/
def State.ElrangeSane (s : State) : Prop := s.crElrange.base.toNat + s.crElrange.size.toNat < 2 ^ 64

/-- `LaunchSigner`, a premise for EINITTOKEN_KEY only: an enclave with ATTRIBUTES.EINITTOKEN_KEY has the MRSIGNER that
IA32_SGXLEPUBKEYHASH names. -/
def State.LaunchSigner (s : State) : Prop :=
  s.currentSecs.einittokenKey = true → s.currentSecs.mrSigner = s.ia32SgxLePubKeyHash

/-- `TextDisjoint`: no byte of the program text is a byte of OUTPUTDATA. -/
def State.TextDisjoint (s : State) : Prop :=
  ∀ a, s.text.start ≤ a → a < s.text.stop → a < s.laOut.toNat ∨ s.laOut.toNat + 16 ≤ a

/-! ### What the instruction accepts -/

/-- The address of an operand passes the tests of R112 (`align = n = 512`) or R116 (`align = n = 16`). -/
structure State.AddressOk (s : State) (r : Word) (align n : Nat) : Prop where
  valid   : s.addressValid r n = true
  aligned : (s.linearAddress r).toNat % align = 0
  low     : s.crElrange.base.toNat ≤ (s.linearAddress r).toNat
  high    : (s.linearAddress r).toNat + n ≤ s.crElrange.base.toNat + s.crElrange.size.toNat

/-- An EPCM entry passes the tests of R113 (`VALID`), R114 and R115 or R119 for the access. -/
structure State.EntryOk (s : State) (la : Word) (acc : Access) (e : EpcmEntry) : Prop where
  valid    : e.valid = true
  unlocked : e.blocked = false
  regular  : e.pt = .ptReg
  owned    : e.enclaveSecs = s.crActiveSecs
  settled  : e.pending = false
  intact   : e.modified = false
  mapped   : e.enclaveAddress.toNat = la.toNat - la.toNat % 4096
  allowed  : match acc with
    | .read => e.r = true
    | .write => e.w = true

/-- The page of an operand passes every test: the address translates to an EPC page whose entry is accepted. -/
def State.PageOk (s : State) (la : Word) (acc : Access) : Prop :=
  ∃ pa e, s.translate la acc = some pa ∧ s.epcmOf pa = some e ∧ s.EntryOk la acc e

/-- Both operands pass every address and page test (R112 to R119). -/
structure State.OperandsOk (s : State) : Prop where
  reqAddress : s.AddressOk s.rbx 512 512
  reqPage    : s.PageOk s.laReq .read
  outAddress : s.AddressOk s.rcx 16 16
  outPage    : s.PageOk s.laOut .write

/-- The format of KEYREQUEST is accepted: reserved space zero (R120) and no KSS feature without KSS (R121). -/
structure State.FormatOk (s : State) : Prop where
  reserved1 : s.request.reserved1 = 0
  reserved2 : s.request.reserved2 = 0
  policy    : ∀ i, 6 ≤ i → s.request.keyPolicy.getLsbD i = false
  kss       : s.currentSecs.kss = true ∨
    ((∀ i, 2 ≤ i → i ≤ 5 → s.request.keyPolicy.getLsbD i = false) ∧ s.request.configSvn = 0)

/-- `pc + 3` does not wrap, and is canonical in Mode64 or at most 2^32 - 1 in Prot32 (R22). -/
def State.PcOk (s : State) : Prop :=
  match s.cfg.mode with
  | .mode64 => s.pc.toNat + 3 < 2 ^ 64 ∧ canonical (s.pc + 3) = true
  | .prot32 => s.pc.toNat + 3 ≤ 2 ^ 32 - 1

/-- Everything the instruction demands before it looks at the key name. -/
structure State.Accepted (s : State) : Prop where
  inEnclave : s.InEnclave
  leaf      : s.LeafSelected
  operands  : s.OperandsOk
  format    : s.FormatOk
  pcOk      : s.PcOk

/-! ### What the key depends on -/

/-- The inputs of the key of each name, one column of the matrix of R161 each: two states that agree on them feed
derivekey the same record. The masked attributes stand for ATTRIBUTES and the request's mask. -/
def SameKeyInputs (s t : State) : KeyName → Prop
  | .seal =>
    s.cfg.procSecret = t.cfg.procSecret ∧
    s.crSgxOwnerEpoch = t.crSgxOwnerEpoch ∧ s.crSealFuses = t.crSealFuses ∧
    s.request.isvSvn = t.request.isvSvn ∧ s.request.cpuSvn = t.request.cpuSvn ∧
    s.request.keyId = t.request.keyId ∧ s.request.attributeMask = t.request.attributeMask ∧
    s.request.miscMask = t.request.miscMask ∧ s.request.keyPolicy = t.request.keyPolicy ∧
    (s.request.keyPolicy.getLsbD 3 = true → s.request.configSvn = t.request.configSvn) ∧
    (s.request.attributeMask ||| 3) &&& s.currentSecs.attributes =
      (s.request.attributeMask ||| 3) &&& t.currentSecs.attributes ∧
    s.request.miscMask &&& s.currentSecs.miscSelect = s.request.miscMask &&& t.currentSecs.miscSelect ∧
    s.currentSecs.padding = t.currentSecs.padding ∧
    (s.request.keyPolicy.getLsbD 0 = true → s.currentSecs.mrEnclave = t.currentSecs.mrEnclave) ∧
    (s.request.keyPolicy.getLsbD 1 = true → s.currentSecs.mrSigner = t.currentSecs.mrSigner) ∧
    (s.request.keyPolicy.getLsbD 2 = false → s.currentSecs.isvProdId = t.currentSecs.isvProdId) ∧
    (s.request.keyPolicy.getLsbD 3 = true → s.currentSecs.configId = t.currentSecs.configId) ∧
    (s.request.keyPolicy.getLsbD 4 = true → s.currentSecs.isvFamilyId = t.currentSecs.isvFamilyId) ∧
    (s.request.keyPolicy.getLsbD 5 = true → s.currentSecs.isvExtProdId = t.currentSecs.isvExtProdId)
  | .report =>
    s.cfg.procSecret = t.cfg.procSecret ∧
    s.crSgxOwnerEpoch = t.crSgxOwnerEpoch ∧ s.crSealFuses = t.crSealFuses ∧ s.crCpuSvn = t.crCpuSvn ∧
    s.request.keyId = t.request.keyId ∧
    s.currentSecs.attributes = t.currentSecs.attributes ∧ s.currentSecs.miscSelect = t.currentSecs.miscSelect ∧
    s.currentSecs.mrEnclave = t.currentSecs.mrEnclave ∧
    s.currentSecs.configId = t.currentSecs.configId ∧ s.currentSecs.configSvn = t.currentSecs.configSvn
  | .einittoken =>
    s.cfg.procSecret = t.cfg.procSecret ∧
    s.crSgxOwnerEpoch = t.crSgxOwnerEpoch ∧ s.crSealFuses = t.crSealFuses ∧
    s.request.isvSvn = t.request.isvSvn ∧ s.request.cpuSvn = t.request.cpuSvn ∧
    s.request.keyId = t.request.keyId ∧
    (s.request.attributeMask ||| 3) &&& s.currentSecs.attributes =
      (t.request.attributeMask ||| 3) &&& t.currentSecs.attributes ∧
    s.request.miscMask &&& s.currentSecs.miscSelect = t.request.miscMask &&& t.currentSecs.miscSelect ∧
    s.currentSecs.isvProdId = t.currentSecs.isvProdId ∧ s.currentSecs.mrSigner = t.currentSecs.mrSigner ∧
    s.currentSecs.padding = t.currentSecs.padding
  | .provision =>
    s.cfg.procSecret = t.cfg.procSecret ∧
    s.request.isvSvn = t.request.isvSvn ∧ s.request.cpuSvn = t.request.cpuSvn ∧
    s.request.attributeMask = t.request.attributeMask ∧ s.request.miscMask = t.request.miscMask ∧
    (s.request.attributeMask ||| 3) &&& s.currentSecs.attributes =
      (s.request.attributeMask ||| 3) &&& t.currentSecs.attributes ∧
    s.request.miscMask &&& s.currentSecs.miscSelect = s.request.miscMask &&& t.currentSecs.miscSelect ∧
    s.currentSecs.isvProdId = t.currentSecs.isvProdId ∧ s.currentSecs.mrSigner = t.currentSecs.mrSigner ∧
    s.currentSecs.padding = t.currentSecs.padding
  | .provisionSeal =>
    s.cfg.procSecret = t.cfg.procSecret ∧ s.crSealFuses = t.crSealFuses ∧
    s.request.isvSvn = t.request.isvSvn ∧ s.request.cpuSvn = t.request.cpuSvn ∧
    s.request.attributeMask = t.request.attributeMask ∧
    s.request.miscMask = t.request.miscMask ∧ s.request.keyPolicy = t.request.keyPolicy ∧
    (s.request.keyPolicy.getLsbD 3 = true → s.request.configSvn = t.request.configSvn) ∧
    (s.request.attributeMask ||| 3) &&& s.currentSecs.attributes =
      (s.request.attributeMask ||| 3) &&& t.currentSecs.attributes ∧
    s.request.miscMask &&& s.currentSecs.miscSelect = s.request.miscMask &&& t.currentSecs.miscSelect ∧
    s.currentSecs.padding = t.currentSecs.padding ∧ s.currentSecs.mrSigner = t.currentSecs.mrSigner ∧
    (s.request.keyPolicy.getLsbD 2 = false → s.currentSecs.isvProdId = t.currentSecs.isvProdId) ∧
    (s.request.keyPolicy.getLsbD 3 = true → s.currentSecs.configId = t.currentSecs.configId) ∧
    (s.request.keyPolicy.getLsbD 4 = true → s.currentSecs.isvFamilyId = t.currentSecs.isvFamilyId) ∧
    (s.request.keyPolicy.getLsbD 5 = true → s.currentSecs.isvExtProdId = t.currentSecs.isvExtProdId)

/-! ### The invariant -/

/-- How many linear addresses a mode has (R75). -/
def addressSpace : Mode → Nat
  | .mode64 => 2 ^ 64
  | .prot32 => 2 ^ 32

/-- `pc` is an address of its mode: canonical in Mode64, below 2^32 in Prot32 (R22). -/
def State.PcInSpace (s : State) : Prop :=
  match s.cfg.mode with
  | .mode64 => canonical s.pc = true
  | .prot32 => s.pc.toNat < 2 ^ 32

/-- What every step keeps: memory is in canonical form and lists only addresses of the mode's linear space, and `pc`
is an address of the mode. -/
structure State.Inv (s : State) : Prop where
  memWf      : s.mem.wf = true
  memInSpace : ∀ c ∈ s.mem, c.1 < addressSpace s.cfg.mode
  pcInSpace  : s.PcInSpace

/-- What no instruction of the machine ever changes (R34, R48): the parameters, the operand registers, DS, every SGX
control register, paging, the EPCM, the SECS, and the program text. -/
structure SameEnvironment (s t : State) : Prop where
  cfg           : t.cfg = s.cfg
  rbx           : t.rbx = s.rbx
  rcx           : t.rcx = s.rcx
  ds            : t.ds = s.ds
  enclaveMode   : t.crEnclaveMode = s.crEnclaveMode
  elrange       : t.crElrange = s.crElrange
  activeSecs    : t.crActiveSecs = s.crActiveSecs
  ownerEpoch    : t.crSgxOwnerEpoch = s.crSgxOwnerEpoch
  sealFuses     : t.crSealFuses = s.crSealFuses
  cpuSvn        : t.crCpuSvn = s.crCpuSvn
  lePubKeyHash  : t.ia32SgxLePubKeyHash = s.ia32SgxLePubKeyHash
  paging        : t.paging = s.paging
  epcm          : t.epcm = s.epcm
  secs          : t.secs = s.secs
  text          : t.text = s.text

/-- The outcome of an instruction as a step gives it: a completion whose OUTPUTDATA overlaps the text is refused
(R81), anything else stands. -/
def stepOutcome (s : State) (o : Result) : Result :=
  match o with
  | .next t =>
    if s.text.start < s.text.stop ∧ s.text.start < s.laOut.toNat + 16 ∧ s.laOut.toNat < s.text.stop then
      .refused .textOverlapsOutput
    else .next t
  | .fault f => .fault f
  | .refused r => .refused r

end Sys2Proof.Machine
end

