-- ==== Sys2Proof/Certificates/Slice0/Obligations.lean ====
section
/-! DEFINITION. The statements about the machine, each from the rules of spec/ its docstring names. A statement whose
docstring says "derived" rests on a decision, a general-knowledge item or an inference of the spec, or on a choice of
the model, and names it. The terms (Accepted, OperandsOk, SameKeyInputs, Inv, ...) are those of Safety. -/

open Sys2Proof Sys2Proof.Machine

/-! ### Encoding and step -/

/-- Derived (R90, R96, R99; G1, D7): the table's word and the bytes `0F 01 D7` decode to EGETKEY, its encoding is those
bytes, and a prefixed or a truncated form decodes to nothing. The number order of the table word is the model's reading
(log entry 6). -/
def Obligations.TableWordDecodes : Prop :=
  decode [0x0F, 0x01, 0xD7] = .ok (.egetkey, []) ∧
  encode .egetkey = [0x0F, 0x01, 0xD7] ∧
  decodeTableWord 24 0x0F01D7 = some .egetkey ∧
  decodeTableWord 24 0xD7010F = none ∧
  decode [0x66, 0x0F, 0x01, 0xD7] = .error .prefixed ∧
  decode [0xF3, 0x0F, 0x01, 0xD7] = .error .prefixed ∧
  decode [0x2E, 0x0F, 0x01, 0xD7] = .error .prefixed ∧
  decode [0x0F, 0x01] = .error .otherOpcode

/-- Derived (R90, R99; G1, D7): the decoder reads an instruction from exactly the byte strings that begin with its
encoding, and leaves exactly the bytes after it. -/
def Obligations.DecodeReadsExactlyEncodings : Prop :=
  ∀ (bs : List Byte) (i : Instr) (rest : List Byte), decode bs = .ok (i, rest) ↔ bs = encode i ++ rest

/-- Derived (R99; D7): whatever prefix bytes stand before ENCLU, and however many, the step refuses the form as prefixed.
Which bytes are prefixes is partly PRESUMED (log entry 5). -/
def Obligations.PrefixedFormsRefused : Prop :=
  ∀ (s : State) (p : Byte) (ps rest : List Byte), s.text.start ≤ s.pc.toNat → s.pc.toNat < s.text.stop →
    (∀ b ∈ p :: ps, isPrefixByte b = true) →
    s.fetchBytes = p :: ps ++ encode .egetkey ++ rest →
    step s = .refused .prefixed

/-- Derived (R77, R81, R230; D29, log entry 7): when the bytes of the text at `pc` decode to an instruction, the step is
that instruction at that state, except that a completion whose OUTPUTDATA overlaps the text is refused. -/
def Obligations.StepRunsDecodedInstr : Prop :=
  ∀ (s : State) (i : Instr) (rest : List Byte), s.text.start ≤ s.pc.toNat → s.pc.toNat < s.text.stop →
    decode s.fetchBytes = .ok (i, rest) →
    step s =
      match exec i s with
      | .next t =>
        if s.text.start < s.laOut.toNat + 16 ∧ s.laOut.toNat < s.text.stop then .refused .textOverlapsOutput
        else .next t
      | .fault f => .fault f
      | .refused r => .refused r

/-- Derived (R90, R91, R66; G1, D2, D29): the three bytes `0F 01 D7` at `pc`, `pc + 1` and `pc + 2`, all in the text,
make the step run EGETKEY. -/
def Obligations.EncluBytesAtPcRun : Prop :=
  ∀ s : State, s.text.start ≤ s.pc.toNat → s.pc.toNat + 3 ≤ s.text.stop →
    s.mem.read s.pc.toNat = 0x0F → s.mem.read (s.pc.toNat + 1) = 0x01 → s.mem.read (s.pc.toNat + 2) = 0xD7 →
    step s = stepOutcome s (exec .egetkey s)

/-- Derived (log entry 17, the model's loading of a program): after withFetchWord with the table's word, EAX is 01H and
the next step runs EGETKEY. -/
def Obligations.LoadedEncluRuns : Prop :=
  ∀ s : State, s.mem.wf = true →
    (s.withFetchWord 24 0x0F01D7).eax = 1 ∧ (s.withFetchWord 24 0x0F01D7).pc = s.pc ∧
    step (s.withFetchWord 24 0x0F01D7) =
      stepOutcome (s.withFetchWord 24 0x0F01D7) (exec .egetkey (s.withFetchWord 24 0x0F01D7))

/-- Derived (R230; D30): a step whose `pc` is not in the text is refused, at the end of the text under its own name. -/
def Obligations.StepOutsideTextRefused : Prop :=
  ∀ s : State,
    (s.text.start ≤ s.pc.toNat → s.pc.toNat = s.text.stop → step s = .refused .endOfText) ∧
    (s.pc.toNat < s.text.start ∨ s.text.stop < s.pc.toNat → step s = .refused .pcOutsideText)

/-! ### Premises of the instruction -/

/-- Derived (R98, R111; D6): outside an enclave, or without SGX1, the instruction is refused. -/
def Obligations.RefusedOutsideEnclave : Prop :=
  ∀ s : State, s.cfg.hasSgx1 = false ∨ s.crEnclaveMode = false → exec .egetkey s = .refused .notInEnclave

/-- Derived (R91, R97; D4, D5): in an enclave, RAX bits 31:0 other than 1 select another leaf, which is refused, whatever
bits 63:32 hold. -/
def Obligations.OtherLeafRefused : Prop :=
  ∀ s : State, s.InEnclave → s.rax.toNat % 2 ^ 32 ≠ 1 → exec .egetkey s = .refused .otherLeaf

/-- Derived (R225): RAX is selector and result, so after any completion EGETKEY is not selected again and no second step
completes. -/
def Obligations.NoSecondKeyWithoutReload : Prop :=
  ∀ s t : State, exec .egetkey s = .next t →
    exec .egetkey t = .refused .otherLeaf ∧ ∀ u, step t ≠ .next u

/-- Derived (R22; D3): a request that is otherwise accepted, at a `pc` whose advance by 3 wraps or leaves the address
space, is refused, whatever its key name, unless it is the launch request that R127 refuses. -/
def Obligations.PcAtTopRefused : Prop :=
  ∀ s : State, s.InEnclave → s.LeafSelected → s.OperandsOk → s.FormatOk → ¬ s.PcOk →
    (s.request.keyName = KeyName.code .einittoken → s.LaunchSigner) →
    exec .egetkey s = .refused .pcOutOfRange

/-! ### Faults -/

/-- R112: an invalid, misaligned or outside KEYREQUEST address raises #GP(0). -/
def Obligations.KeyrequestAddressFault : Prop :=
  ∀ s : State, s.InEnclave → s.LeafSelected →
    (s.addressValid s.rbx 512 = false ∨ s.laReq.toNat % 512 ≠ 0 ∨ s.laReq.toNat < s.crElrange.base.toNat ∨
      s.crElrange.base.toNat + s.crElrange.size.toNat < s.laReq.toNat + 512) →
    exec .egetkey s = .fault .gp0

/-- R113, R114, R115: a KEYREQUEST page that does not translate, is no EPC page, or fails an EPCM test raises #PF at the
operand's address. -/
def Obligations.KeyrequestPageFault : Prop :=
  ∀ s : State, s.InEnclave → s.LeafSelected → s.AddressOk s.rbx 512 512 →
    (s.translate s.laReq .read = none ∨
      (∃ pa, s.translate s.laReq .read = some pa ∧ s.epcmOf pa = none) ∨
      (∃ pa e, s.translate s.laReq .read = some pa ∧ s.epcmOf pa = some e ∧
        (e.valid = false ∨ e.blocked = true ∨ e.pt ≠ .ptReg ∨ e.enclaveSecs ≠ s.crActiveSecs ∨ e.pending = true ∨
          e.modified = true ∨ e.enclaveAddress.toNat ≠ s.laReq.toNat - s.laReq.toNat % 4096 ∨ e.r = false))) →
    ∃ code, exec .egetkey s = .fault (.pageFault s.laReq code)

/-- R116: with an accepted KEYREQUEST operand, an invalid, misaligned or outside OUTPUTDATA address raises #GP(0). -/
def Obligations.OutputAddressFault : Prop :=
  ∀ s : State, s.InEnclave → s.LeafSelected → s.AddressOk s.rbx 512 512 → s.PageOk s.laReq .read →
    (s.addressValid s.rcx 16 = false ∨ s.laOut.toNat % 16 ≠ 0 ∨ s.laOut.toNat < s.crElrange.base.toNat ∨
      s.crElrange.base.toNat + s.crElrange.size.toNat < s.laOut.toNat + 16) →
    exec .egetkey s = .fault .gp0

/-- R117, R118, R119: with an accepted KEYREQUEST operand and OUTPUTDATA address, the instruction raises #PF at the
OUTPUTDATA address exactly when that page does not translate, is no EPC page, or fails an EPCM test; `R` is not among
the tests, and the request's content does not matter. -/
def Obligations.OutputPageFault : Prop :=
  ∀ s : State, s.InEnclave → s.LeafSelected → s.AddressOk s.rbx 512 512 → s.PageOk s.laReq .read →
    s.AddressOk s.rcx 16 16 →
    ((∃ code, exec .egetkey s = .fault (.pageFault s.laOut code)) ↔
      (s.translate s.laOut .write = none ∨
        (∃ pa, s.translate s.laOut .write = some pa ∧ s.epcmOf pa = none) ∨
        (∃ pa e, s.translate s.laOut .write = some pa ∧ s.epcmOf pa = some e ∧
          (e.valid = false ∨ e.blocked = true ∨ e.pt ≠ .ptReg ∨ e.enclaveSecs ≠ s.crActiveSecs ∨ e.pending = true ∨
            e.modified = true ∨ e.enclaveAddress.toNat ≠ s.laOut.toNat - s.laOut.toNat % 4096 ∨ e.w = false))))

/-- R120: a non-zero byte of either reserved region of KEYREQUEST, or a set KEYPOLICY bit of 15:6, raises #GP(0), for
every key name. -/
def Obligations.ReservedSpaceFault : Prop :=
  ∀ s : State, s.InEnclave → s.LeafSelected → s.OperandsOk →
    ((∃ k, (6 ≤ k ∧ k ≤ 7 ∨ 78 ≤ k ∧ k ≤ 511) ∧ s.mem.read (s.laReq.toNat + k) ≠ 0) ∨
      (∃ i, 6 ≤ i ∧ i ≤ 15 ∧ s.request.keyPolicy.getLsbD i = true)) →
    exec .egetkey s = .fault .gp0

/-- Derived (R121; its clause on the derivation data is the spec's own inference from R152, and KSS as ATTRIBUTES bit 7 is
R34's, by G6 and D19, log entry 1): without KSS, a set KEYPOLICY bit of 5:2 or a non-zero CONFIGSVN raises #GP(0), for
every key name; past the gate without KSS both are zero, so the seal keys include ISVPRODID and exclude the KSS fields. -/
def Obligations.KssGate : Prop :=
  ∀ s : State, s.InEnclave → s.LeafSelected → s.OperandsOk → s.currentSecs.attributes.getLsbD 7 = false →
    (((∃ i, 2 ≤ i ∧ i ≤ 5 ∧ s.request.keyPolicy.getLsbD i = true) ∨ s.request.configSvn ≠ 0) →
      exec .egetkey s = .fault .gp0) ∧
    (∀ t, exec .egetkey s = .next t →
      s.request.configSvn = 0 ∧ (∀ i, 2 ≤ i → i ≤ 5 → s.request.keyPolicy.getLsbD i = false) ∧
      ∀ k, (k = .seal ∨ k = .provisionSeal) →
        (s.dependencies k).isvProdId = s.currentSecs.isvProdId ∧ (s.dependencies k).isvFamilyId = 0 ∧
        (s.dependencies k).isvExtProdId = 0 ∧ (s.dependencies k).configId = 0 ∧ (s.dependencies k).configSvn = 0)

/-- Derived (R190, R195, R196; D10, D15): the instruction raises no other fault than #GP(0) and #PF at one of its two
operand addresses, and it raises none when both operands and the format are accepted. -/
def Obligations.OnlyTwoFaultClasses : Prop :=
  ∀ (s : State) (f : Fault), exec .egetkey s = .fault f →
    (f = .gp0 ∨ (∃ code, f = .pageFault s.laReq code) ∨ (∃ code, f = .pageFault s.laOut code)) ∧
    ¬ (s.OperandsOk ∧ s.FormatOk)

/-! ### Results -/

/-- R130: an accepted request for one of the five keys, with no error, completes with the 16 bytes at LA_OUT holding the
key of its derivation data (bit i of the key in bit i mod 8 of byte i div 8), RAX and the six flags 0, and `pc` past
the instruction. -/
def Obligations.SuccessfulReturn : Prop :=
  ∀ (s : State) (k : KeyName), s.Accepted → s.mem.wf = true → s.request.keyName = k.code → s.errSet k = [] →
    (k = .einittoken → s.LaunchSigner) →
    ∃ t, exec .egetkey s = .next t ∧
      (∀ i, i < 128 → (t.mem.read (s.laOut.toNat + i / 8)).getLsbD (i % 8) =
        (Config.derivekey s.cfg.procSecret (s.dependencies k)).getLsbD i) ∧
      t.rax = 0 ∧ (∀ f : Flag, t.flag f = false) ∧ t.pc = s.pc + 3

/-- R129: an accepted request with at least one error completes with ZF set, one member of ErrSet in RAX, the other five
flags clear, memory untouched and `pc` past the instruction. -/
def Obligations.ErrorReturn : Prop :=
  ∀ (s : State) (k : KeyName), s.Accepted → s.request.keyName = k.code → s.errSet k ≠ [] →
    (k = .einittoken → s.LaunchSigner) →
    ∃ t e, exec .egetkey s = .next t ∧ e ∈ s.errSet k ∧ t.rax = e.value ∧
      (∀ f : Flag, t.flag f = true ↔ f = .zf) ∧ t.mem = s.mem ∧ t.pc = s.pc + 3

/-- R131: an accepted request whose KEYNAME is none of the five completes with SGX_INVALID_KEYNAME in RAX and ZF set,
whatever its other fields. -/
def Obligations.InvalidKeyName : Prop :=
  ∀ s : State, s.Accepted → (∀ k : KeyName, s.request.keyName ≠ k.code) →
    ∃ t, exec .egetkey s = .next t ∧ t.rax = ErrorCode.value .invalidKeyName ∧
      (∀ f : Flag, t.flag f = true ↔ f = .zf) ∧ t.mem = s.mem ∧ t.pc = s.pc + 3

/-- R156: the SEAL_KEY arm, with the policy bits where R39 has them (G5, log entry 1). -/
def Obligations.SealKeyData : Prop :=
  ∀ s : State, s.Accepted → s.mem.wf = true → s.request.keyName = KeyName.code .seal →
    s.beyondCpu s.request = false → s.request.isvSvn.toNat ≤ s.currentSecs.isvSvn.toNat →
    s.request.configSvn.toNat ≤ s.currentSecs.configSvn.toNat →
    ∃ t, exec .egetkey s = .next t ∧
      BitVec.ofNat 128 (t.mem.readLE s.laOut.toNat 16) = Config.derivekey s.cfg.procSecret
        { keyName := KeyName.code .seal
          isvFamilyId := if s.request.keyPolicy.getLsbD 4 then s.currentSecs.isvFamilyId else 0
          isvExtProdId := if s.request.keyPolicy.getLsbD 5 then s.currentSecs.isvExtProdId else 0
          isvProdId := if s.request.keyPolicy.getLsbD 2 then 0 else s.currentSecs.isvProdId
          isvSvn := s.request.isvSvn
          sgxOwnerEpoch := s.crSgxOwnerEpoch
          attributes := (s.request.attributeMask ||| 3) &&& s.currentSecs.attributes
          attributesMask := s.request.attributeMask
          mrEnclave := if s.request.keyPolicy.getLsbD 0 then s.currentSecs.mrEnclave else 0
          mrSigner := if s.request.keyPolicy.getLsbD 1 then s.currentSecs.mrSigner else 0
          keyId := s.request.keyId
          sealKeyFuses := s.crSealFuses
          cpuSvn := s.request.cpuSvn
          padding := s.currentSecs.padding
          miscSelect := s.request.miscMask &&& s.currentSecs.miscSelect
          miscMask := ~~~s.request.miscMask
          keyPolicy := s.request.keyPolicy
          configId := if s.request.keyPolicy.getLsbD 3 then s.currentSecs.configId else 0
          configSvn := if s.request.keyPolicy.getLsbD 3 then s.request.configSvn else 0 }

/-- R157: the REPORT_KEY arm, which has no check. -/
def Obligations.ReportKeyData : Prop :=
  ∀ s : State, s.Accepted → s.mem.wf = true → s.request.keyName = KeyName.code .report →
    ∃ t, exec .egetkey s = .next t ∧
      BitVec.ofNat 128 (t.mem.readLE s.laOut.toNat 16) = Config.derivekey s.cfg.procSecret
        { keyName := KeyName.code .report
          isvFamilyId := 0
          isvExtProdId := 0
          isvProdId := 0
          isvSvn := 0
          sgxOwnerEpoch := s.crSgxOwnerEpoch
          attributes := s.currentSecs.attributes
          attributesMask := 0
          mrEnclave := s.currentSecs.mrEnclave
          mrSigner := 0
          keyId := s.request.keyId
          sealKeyFuses := s.crSealFuses
          cpuSvn := s.crCpuSvn
          padding := hardcodedPadding
          miscSelect := s.currentSecs.miscSelect
          miscMask := 0
          keyPolicy := 0
          configId := s.currentSecs.configId
          configSvn := s.currentSecs.configSvn }

/-- R158: the EINITTOKEN_KEY arm; the attribute is bit 5 as R34 has it (G6, log entry 1). -/
def Obligations.EinittokenKeyData : Prop :=
  ∀ s : State, s.Accepted → s.mem.wf = true → s.request.keyName = KeyName.code .einittoken →
    s.currentSecs.attributes.getLsbD 5 = true → s.currentSecs.mrSigner = s.ia32SgxLePubKeyHash →
    s.beyondCpu s.request = false → s.request.isvSvn.toNat ≤ s.currentSecs.isvSvn.toNat →
    ∃ t, exec .egetkey s = .next t ∧
      BitVec.ofNat 128 (t.mem.readLE s.laOut.toNat 16) = Config.derivekey s.cfg.procSecret
        { keyName := KeyName.code .einittoken
          isvFamilyId := 0
          isvExtProdId := 0
          isvProdId := s.currentSecs.isvProdId
          isvSvn := s.request.isvSvn
          sgxOwnerEpoch := s.crSgxOwnerEpoch
          attributes := (s.request.attributeMask ||| 3) &&& s.currentSecs.attributes
          attributesMask := 0
          mrEnclave := 0
          mrSigner := s.currentSecs.mrSigner
          keyId := s.request.keyId
          sealKeyFuses := s.crSealFuses
          cpuSvn := s.request.cpuSvn
          padding := s.currentSecs.padding
          miscSelect := s.request.miscMask &&& s.currentSecs.miscSelect
          miscMask := 0
          keyPolicy := 0
          configId := 0
          configSvn := 0 }

/-- Derived (R159): the PROVISION_KEY arm. Two of its fields rest on choices: KEYID is 0 by the Operation against Table
40-64 (conflict C5, D26, log entry 21), and CONFIGSVN, which the Operation leaves unassigned, is 0 by the table (conflict
C9, D27, log entry 22). -/
def Obligations.ProvisionKeyData : Prop :=
  ∀ s : State, s.Accepted → s.mem.wf = true → s.request.keyName = KeyName.code .provision →
    s.currentSecs.attributes.getLsbD 4 = true →
    s.beyondCpu s.request = false → s.request.isvSvn.toNat ≤ s.currentSecs.isvSvn.toNat →
    ∃ t, exec .egetkey s = .next t ∧
      BitVec.ofNat 128 (t.mem.readLE s.laOut.toNat 16) = Config.derivekey s.cfg.procSecret
        { keyName := KeyName.code .provision
          isvFamilyId := 0
          isvExtProdId := 0
          isvProdId := s.currentSecs.isvProdId
          isvSvn := s.request.isvSvn
          sgxOwnerEpoch := 0
          attributes := (s.request.attributeMask ||| 3) &&& s.currentSecs.attributes
          attributesMask := s.request.attributeMask
          mrEnclave := 0
          mrSigner := s.currentSecs.mrSigner
          keyId := 0
          sealKeyFuses := 0
          cpuSvn := s.request.cpuSvn
          padding := s.currentSecs.padding
          miscSelect := s.request.miscMask &&& s.currentSecs.miscSelect
          miscMask := ~~~s.request.miscMask
          keyPolicy := 0
          configId := 0
          configSvn := 0 }

/-- Derived (R160): the PROVISION_SEAL_KEY arm. Two points rest on choices: KEYID is 0 by the Operation against Table
40-64 (conflict C5, D26, log entry 21), and CONFIGSVN must not be beyond only where the open parameter
`provseal_checks_configsvn` asks for it (conflict C10, D25, log entry 23). -/
def Obligations.ProvisionSealKeyData : Prop :=
  ∀ s : State, s.Accepted → s.mem.wf = true → s.request.keyName = KeyName.code .provisionSeal →
    s.currentSecs.attributes.getLsbD 4 = true →
    s.beyondCpu s.request = false → s.request.isvSvn.toNat ≤ s.currentSecs.isvSvn.toNat →
    (s.cfg.provsealChecksConfigsvn = true → s.request.configSvn.toNat ≤ s.currentSecs.configSvn.toNat) →
    ∃ t, exec .egetkey s = .next t ∧
      BitVec.ofNat 128 (t.mem.readLE s.laOut.toNat 16) = Config.derivekey s.cfg.procSecret
        { keyName := KeyName.code .provisionSeal
          isvFamilyId := if s.request.keyPolicy.getLsbD 4 then s.currentSecs.isvFamilyId else 0
          isvExtProdId := if s.request.keyPolicy.getLsbD 5 then s.currentSecs.isvExtProdId else 0
          isvProdId := if s.request.keyPolicy.getLsbD 2 then 0 else s.currentSecs.isvProdId
          isvSvn := s.request.isvSvn
          sgxOwnerEpoch := 0
          attributes := (s.request.attributeMask ||| 3) &&& s.currentSecs.attributes
          attributesMask := s.request.attributeMask
          mrEnclave := 0
          mrSigner := s.currentSecs.mrSigner
          keyId := 0
          sealKeyFuses := s.crSealFuses
          cpuSvn := s.request.cpuSvn
          padding := s.currentSecs.padding
          miscSelect := s.request.miscMask &&& s.currentSecs.miscSelect
          miscMask := ~~~s.request.miscMask
          keyPolicy := s.request.keyPolicy
          configId := if s.request.keyPolicy.getLsbD 3 then s.currentSecs.configId else 0
          configSvn := if s.request.keyPolicy.getLsbD 3 then s.request.configSvn else 0 }

/-! ### Error checks of each arm -/

/-- R125: the error set of SEAL_KEY, and that an accepted request completes with ZF set exactly when it is not empty,
RAX then holding a code whose condition holds. CONFIGSVN is tested whatever the policy bits. -/
def Obligations.SealKeyChecks : Prop :=
  ∀ s : State,
    (∀ e, e ∈ s.errSet .seal ↔
      (e = .invalidCpuSvn ∧ s.beyondCpu s.request = true) ∨
      (e = .invalidIsvSvn ∧ (s.currentSecs.isvSvn.toNat < s.request.isvSvn.toNat ∨
        s.currentSecs.configSvn.toNat < s.request.configSvn.toNat))) ∧
    (s.Accepted → s.request.keyName = KeyName.code .seal →
      ∃ t, exec .egetkey s = .next t ∧ (t.flag .zf = true ↔ s.errSet .seal ≠ []) ∧
        (t.flag .zf = true → ∃ e ∈ s.errSet .seal, t.rax = e.value))

/-- R126: REPORT_KEY has no check: an accepted request always completes with success, and two states that differ at most
in the request fields R126 calls ignored (and in anything outside the request's memory) get the same key bytes. -/
def Obligations.ReportKeyAlwaysSucceeds : Prop :=
  (∀ s : State, s.errSet .report = []) ∧
  ∀ (s : State) (m : Memory), s.Accepted → (s.setMem m).Accepted → s.mem.wf = true → m.wf = true →
    s.request.keyName = KeyName.code .report → (s.setMem m).request.keyName = KeyName.code .report →
    (s.setMem m).request.keyId = s.request.keyId →
    ∃ t u, exec .egetkey s = .next t ∧ exec .egetkey (s.setMem m) = .next u ∧
      t.rax = 0 ∧ t.flag .zf = false ∧ u.rax = 0 ∧ u.flag .zf = false ∧
      ∀ i, i < 16 → t.mem.read (s.laOut.toNat + i) = u.mem.read (s.laOut.toNat + i)

/-- Derived (R127; D24 for the refusal): the checks of EINITTOKEN_KEY. CONFIGSVN is not among them. With the attribute
set and another signer than IA32_SGXLEPUBKEYHASH the request is refused, in every other case it completes. -/
def Obligations.EinittokenKeyChecks : Prop :=
  ∀ s : State,
    (∀ e, e ∈ s.errSet .einittoken ↔
      (e = .invalidAttribute ∧ s.currentSecs.attributes.getLsbD 5 = false) ∨
      (e = .invalidCpuSvn ∧ s.beyondCpu s.request = true) ∨
      (e = .invalidIsvSvn ∧ s.currentSecs.isvSvn.toNat < s.request.isvSvn.toNat)) ∧
    (s.Accepted → s.request.keyName = KeyName.code .einittoken →
      (s.currentSecs.attributes.getLsbD 5 = true → s.currentSecs.mrSigner ≠ s.ia32SgxLePubKeyHash →
        exec .egetkey s = .refused .einittokenMrsigner) ∧
      (s.currentSecs.attributes.getLsbD 5 = false ∨ s.currentSecs.mrSigner = s.ia32SgxLePubKeyHash →
        ∃ t, exec .egetkey s = .next t ∧ (t.flag .zf = true ↔ s.errSet .einittoken ≠ []) ∧
          (t.flag .zf = true → ∃ e ∈ s.errSet .einittoken, t.rax = e.value)))

/-- Derived (R128; D25 for CONFIGSVN): the checks of the two provisioning keys. CONFIGSVN is tested for
PROVISION_SEAL_KEY where the parameter `provseal_checks_configsvn` says so, and never for PROVISION_KEY. -/
def Obligations.ProvisionKeysChecks : Prop :=
  ∀ (s : State) (k : KeyName), k = .provision ∨ k = .provisionSeal →
    (∀ e, e ∈ s.errSet k ↔
      (e = .invalidAttribute ∧ s.currentSecs.attributes.getLsbD 4 = false) ∨
      (e = .invalidCpuSvn ∧ s.beyondCpu s.request = true) ∨
      (e = .invalidIsvSvn ∧ (s.currentSecs.isvSvn.toNat < s.request.isvSvn.toNat ∨
        (k = .provisionSeal ∧ s.cfg.provsealChecksConfigsvn = true ∧
          s.currentSecs.configSvn.toNat < s.request.configSvn.toNat)))) ∧
    (s.Accepted → s.request.keyName = k.code →
      ∃ t, exec .egetkey s = .next t ∧ (t.flag .zf = true ↔ s.errSet k ≠ []) ∧
        (t.flag .zf = true → ∃ e ∈ s.errSet k, t.rax = e.value))

/-! ### Frame, flags, safety -/

/-- Derived (R48; D34): what a completion leaves as it was. The parameters, RBX, RCX, DS, every SGX control register,
paging, EPCM, SECS and text are unchanged; so is every bit of RFLAGS that holds no status flag, and every byte of
memory outside the 16 at LA_OUT; with an error code (ZF set) all of memory is. -/
def Obligations.CompletionFrame : Prop :=
  ∀ s t : State, s.mem.wf = true → exec .egetkey s = .next t →
    SameEnvironment s t ∧
    (∀ i, i ≠ 0 → i ≠ 2 → i ≠ 4 → i ≠ 6 → i ≠ 7 → i ≠ 11 → t.rflags.getLsbD i = s.rflags.getLsbD i) ∧
    (∀ a, a < s.laOut.toNat ∨ s.laOut.toNat + 16 ≤ a → t.mem.read a = s.mem.read a) ∧
    (t.flag .zf = true → ∀ a, t.mem.read a = s.mem.read a)

/-- Derived (R23, R45; G2, G8): after a completion CF, PF, AF, OF and SF are clear, and either ZF is clear and RAX is 0,
or ZF is set and RAX is one of the four error codes. -/
def Obligations.CompletionFlags : Prop :=
  ∀ s t : State, exec .egetkey s = .next t →
    t.rflags.getLsbD 0 = false ∧ t.rflags.getLsbD 2 = false ∧ t.rflags.getLsbD 4 = false ∧
    t.rflags.getLsbD 11 = false ∧ t.rflags.getLsbD 7 = false ∧
    ((t.rflags.getLsbD 6 = false ∧ t.rax = 0) ∨
      (t.rflags.getLsbD 6 = true ∧ (t.rax = 2 ∨ t.rax = 32 ∨ t.rax = 64 ∨ t.rax = 256)))

/-- R162: a provisioning key is returned only to an enclave with ATTRIBUTES.PROVISIONKEY, the EINITTOKEN key only to one
with ATTRIBUTES.EINITTOKEN_KEY whose MRSIGNER equals IA32_SGXLEPUBKEYHASH; SEAL_KEY and REPORT_KEY are not access
controlled: they never end in SGX_INVALID_ATTRIBUTE. -/
def Obligations.AccessControl : Prop :=
  ∀ s t : State, exec .egetkey s = .next t →
    (t.flag .zf = false →
      (s.request.keyName = KeyName.code .provision ∨ s.request.keyName = KeyName.code .provisionSeal →
        s.currentSecs.provisionKey = true) ∧
      (s.request.keyName = KeyName.code .einittoken →
        s.currentSecs.einittokenKey = true ∧ s.currentSecs.mrSigner = s.ia32SgxLePubKeyHash)) ∧
    (s.request.keyName = KeyName.code .seal ∨ s.request.keyName = KeyName.code .report →
      t.rax ≠ ErrorCode.value .invalidAttribute)

/-- Derived (R124; D21, D23, log entries 12 and 27): no key is returned for a security version number beyond the current
one: for every key but REPORT_KEY the requested CPUSVN is not beyond CR_CPUSVN and the requested ISVSVN is at most the
enclave's; for SEAL_KEY the requested CONFIGSVN is at most the enclave's, and so it is for PROVISION_SEAL_KEY where
`provseal_checks_configsvn` is true. Where that parameter is false, D25 (conflict C10, log entry 23) leaves the
PROVISION_SEAL_KEY of a CONFIGSVN beyond open, and nothing is said of it. The current CPUSVN is not beyond itself. -/
def Obligations.NoKeyBeyondCurrentSvn : Prop :=
  (∀ c, cpusvnBeyond c c = false) ∧
  ∀ s t : State, exec .egetkey s = .next t → t.flag .zf = false →
    (s.request.keyName ≠ KeyName.code .report →
      cpusvnBeyond s.request.cpuSvn s.crCpuSvn = false ∧
      s.request.isvSvn.toNat ≤ s.currentSecs.isvSvn.toNat) ∧
    (s.request.keyName = KeyName.code .seal ∨
        s.request.keyName = KeyName.code .provisionSeal ∧ s.cfg.provsealChecksConfigsvn = true →
      s.request.configSvn.toNat ≤ s.currentSecs.configSvn.toNat)

/-- R44: bits 0 and 1 of SECS.ATTRIBUTES always pass, whatever the request's mask; every other bit passes exactly where
the request's mask asks for it. -/
def Obligations.SealingMaskKeepsInitAndDebug : Prop :=
  ∀ (r : KeyRequest) (c : SecsRecord), requiredSealingMask = 3 ∧
    tmpAttributes r c = (r.attributeMask ||| requiredSealingMask) &&& c.attributes ∧
    (tmpAttributes r c).getLsbD 0 = c.attributes.getLsbD 0 ∧ (tmpAttributes r c).getLsbD 1 = c.attributes.getLsbD 1 ∧
    ∀ i, 2 ≤ i → (tmpAttributes r c).getLsbD i = (r.attributeMask.getLsbD i && c.attributes.getLsbD i)

/-- R163: the padding constant: its three parts, and its 352 bytes from the lowest. -/
def Obligations.PaddingConstant : Prop :=
  hardcodedPadding.extractLsb' 0 16 = 0x0100#16 ∧
  hardcodedPadding.extractLsb' 16 2640 = BitVec.allOnes 2640 ∧
  hardcodedPadding.extractLsb' 2656 160 = 0x2004000501020403650148866009060D30313000#160 ∧
  (List.range 352).map (fun k => hardcodedPadding.extractLsb' (8 * k) 8) =
    [0x00, 0x01] ++ List.replicate 330 0xFF ++
    [0x00, 0x30, 0x31, 0x30, 0x0D, 0x06, 0x09, 0x60, 0x86, 0x48, 0x01, 0x65, 0x03, 0x04, 0x02, 0x01, 0x05, 0x00,
      0x04, 0x20]

/-! ### Operands in memory -/

/-- Derived (R38, R66; G3, D2, D18): each field of the request is the little-endian number at its offset: bit i of the
field is bit i mod 8 of the byte i div 8 bytes into it. -/
def Obligations.KeyrequestLayout : Prop :=
  ∀ (m : Memory) (la : Nat),
    (∀ i, i < 16 → (m.keyRequest la).keyName.getLsbD i = (m.read (la + i / 8)).getLsbD (i % 8)) ∧
    (∀ i, i < 16 → (m.keyRequest la).keyPolicy.getLsbD i = (m.read (la + 2 + i / 8)).getLsbD (i % 8)) ∧
    (∀ i, i < 16 → (m.keyRequest la).isvSvn.getLsbD i = (m.read (la + 4 + i / 8)).getLsbD (i % 8)) ∧
    (∀ i, i < 16 → (m.keyRequest la).reserved1.getLsbD i = (m.read (la + 6 + i / 8)).getLsbD (i % 8)) ∧
    (∀ i, i < 128 → (m.keyRequest la).cpuSvn.getLsbD i = (m.read (la + 8 + i / 8)).getLsbD (i % 8)) ∧
    (∀ i, i < 128 → (m.keyRequest la).attributeMask.getLsbD i = (m.read (la + 24 + i / 8)).getLsbD (i % 8)) ∧
    (∀ i, i < 256 → (m.keyRequest la).keyId.getLsbD i = (m.read (la + 40 + i / 8)).getLsbD (i % 8)) ∧
    (∀ i, i < 32 → (m.keyRequest la).miscMask.getLsbD i = (m.read (la + 72 + i / 8)).getLsbD (i % 8)) ∧
    (∀ i, i < 16 → (m.keyRequest la).configSvn.getLsbD i = (m.read (la + 76 + i / 8)).getLsbD (i % 8)) ∧
    (∀ i, i < 3472 → (m.keyRequest la).reserved2.getLsbD i = (m.read (la + 78 + i / 8)).getLsbD (i % 8))

/-- Derived (R60, R61; D9, D33, G18): the linear address of an operand and its validity test, in both modes. -/
def Obligations.OperandAddressesByMode : Prop :=
  ∀ (s : State) (r : Word) (n : Nat), 0 < n →
    (s.cfg.mode = .mode64 → s.linearAddress r = r ∧
      (s.addressValid r n = true ↔ canonical r = true ∧ canonical (r + BitVec.ofNat 64 (n - 1)) = true)) ∧
    (s.cfg.mode = .prot32 →
      (s.linearAddress r).toNat = (s.ds.base.toNat + r.toNat % 2 ^ 32) % 2 ^ 32 ∧
      (s.addressValid r n = true ↔ r.toNat % 2 ^ 32 + n ≤ s.ds.limit.toNat + 1))

/-- Derived (R61; G18): canonical means that bits 63:47 are all equal, that is, the address lies in the lowest or in the
highest 2^47 addresses. -/
def Obligations.CanonicalAddresses : Prop :=
  ∀ a : Word, canonical a = true ↔ a.toNat < 2 ^ 47 ∨ 2 ^ 64 - 2 ^ 47 ≤ a.toNat

/-- Derived (R73; D36): OUTPUTDATA may lie inside KEYREQUEST. With RCX = RBX the key is that of the request as it was,
it stands in the first 16 bytes, and the other 496 bytes of the request are unchanged. -/
def Obligations.OverlappingOperands : Prop :=
  ∀ s t : State, s.mem.wf = true → s.rcx = s.rbx → exec .egetkey s = .next t → t.flag .zf = false →
    ∃ k : KeyName, s.request.keyName = k.code ∧
      BitVec.ofNat 128 (t.mem.readLE s.laReq.toNat 16) = Config.derivekey s.cfg.procSecret (s.dependencies k) ∧
      ∀ i, 16 ≤ i → i < 512 → t.mem.read (s.laReq.toNat + i) = s.mem.read (s.laReq.toNat + i)

/-! ### Whole-machine claims -/

/-- Derived (R161, R165, R166; D22, log entry 10; that the two provisioning keys ignore the requested KEYID is D26, log
entry 21, and that PROVISION_KEY ignores CONFIGSVN is D27, log entry 22): the key depends on nothing but the inputs its column of R161 lists. Two successful
executions for the same key name that agree on those inputs write the same 16 bytes, whatever else differs: addresses,
mode, flags, other request fields, other SECS fields, the other control registers. -/
def Obligations.KeyDependsOnlyOnListedInputs : Prop :=
  ∀ (s s' t t' : State) (k : KeyName), s.mem.wf = true → s'.mem.wf = true →
    exec .egetkey s = .next t → exec .egetkey s' = .next t' → t.flag .zf = false → t'.flag .zf = false →
    s.request.keyName = k.code → s'.request.keyName = k.code → SameKeyInputs s s' k →
    ∀ i, i < 16 → t.mem.read (s.laOut.toNat + i) = t'.mem.read (s'.laOut.toNat + i)

/-- Derived (R22, R46, R75; D3, log entries 8 and 18): every step keeps the invariant. -/
def Obligations.StepKeepsInv : Prop :=
  ∀ s t : State, s.Inv → step s = .next t → t.Inv

/-- Derived (log entries 15 to 19, the model's reset values): the state after reset meets the invariant, is inside an
enclave, and has no program. -/
def Obligations.ResetMeetsInv : Prop :=
  State.reset.Inv ∧ State.reset.InEnclave ∧ State.reset.mem = [] ∧
  step State.reset = .refused .pcOutsideText

/-- Derived (R48, R81; D29, D34, log entries 7 and 26): from any state with canonical memory, a step changes nothing of
the environment of the enclave and no byte of the program text, and leaves memory canonical. -/
def Obligations.StepKeepsEnvironmentAndText : Prop :=
  ∀ s t : State, s.mem.wf = true → step s = .next t →
    SameEnvironment s t ∧ t.mem.wf = true ∧
    ∀ a, s.text.start ≤ a → a < s.text.stop → t.mem.read a = s.mem.read a

/-- Derived (R222, R223; D24, D29, log entries 7, 17 and 25): the launch premises suffice. In an enclave, with the leaf
selected, ENCLU at `pc` in a text disjoint from OUTPUTDATA, the launch signer where the EINITTOKEN key is asked for, and
operands, format and `pc` accepted, the step completes, whatever the key name. -/
def Obligations.LaunchedStepCompletes : Prop :=
  ∀ s : State, s.InEnclave → s.LeafSelected → s.TextDisjoint →
    (s.request.keyName = KeyName.code .einittoken → s.LaunchSigner) →
    s.OperandsOk → s.FormatOk → s.PcOk →
    s.text.start ≤ s.pc.toNat → s.pc.toNat + 3 ≤ s.text.stop →
    s.mem.read s.pc.toNat = 0x0F → s.mem.read (s.pc.toNat + 1) = 0x01 → s.mem.read (s.pc.toNat + 2) = 0xD7 →
    ∃ t, step s = .next t
end

