-- ==== Sys2Proof/WellFormed.lean ====
section
/-! DEFINITION. Which terms of Instr are instructions of the machine. -/

namespace Sys2Proof

/-- Well-formedness of an instruction. The format IR has no field (R92), so there is nothing to check and no
ill-formed term: everything the spec rejects about the instruction is rejected on bytes (Decode) or on the state
(Machine/Enclu). -/
def Instr.wf : Instr → Bool
  | .egetkey => true

end Sys2Proof
end

