-- ==== Sys2Proof/Laws/Decode.lean ====
section
/-! SUPPORT. The decoder on the encodings. -/

namespace Sys2Proof

/-- What the unprefixed decoder accepts, and all it can answer. -/
theorem decodeUnprefixed_eq_some (bs : List Byte) (i : Instr) (rest : List Byte) :
    decodeUnprefixed bs = some (i, rest) ↔ bs = encode i ++ rest := by
  cases i
  rcases bs with _ | ⟨b0, _ | ⟨b1, _ | ⟨b2, bs⟩⟩⟩ <;> simp [decodeUnprefixed, encode, and_assoc]

/-- No byte of the opcode is a prefix byte. -/
theorem skipPrefixes_encode (i : Instr) (rest : List Byte) : skipPrefixes (encode i ++ rest) = encode i ++ rest := by
  cases i; rfl

theorem length_tableWordBytes (n w : Nat) : (tableWordBytes n w).length = n := by
  induction n with
  | zero => rfl
  | succ n ih => simp [tableWordBytes, ih]

end Sys2Proof
end

