-- ==== Sys2Proof/Laws/Flags.lean ====
section
/-! SUPPORT. What each bit of RFLAGS is after a completion. -/

namespace Sys2Proof.Machine

/-- The five cleared flags (R23). -/
theorem completionFlags_cleared (old : Word) (z : Bool) (f : Flag) (hf : f ≠ .zf) :
    (completionFlags old z).getLsbD f.pos = false := by
  cases f <;> cases z <;> simp_all [completionFlags, Flag.pos, statusMask]

/-- ZF is as given (R23). -/
theorem completionFlags_zf (old : Word) (z : Bool) : (completionFlags old z).getLsbD Flag.zf.pos = z := by
  cases z <;> simp [completionFlags, Flag.pos, statusMask]

/-- Every bit that holds no status flag is as it was (R23). -/
theorem completionFlags_other (old : Word) (z : Bool) (i : Nat) (hi : ∀ f : Flag, i ≠ f.pos) :
    (completionFlags old z).getLsbD i = old.getLsbD i := by
  by_cases h64 : i < 64
  · have h0 := hi .cf; have h2 := hi .pf; have h4 := hi .af
    have h6 := hi .zf; have h7 := hi .sf; have h11 := hi .of
    simp only [Flag.pos] at h0 h2 h4 h6 h7 h11
    have hm : statusMask.getLsbD i = false ∧ (64#64).getLsbD i = false := by
      clear hi
      interval_cases i <;> first | omega | decide
    simp only [BitVec.getLsbD_eq_getElem h64] at hm
    cases z <;> simp [completionFlags, h64, hm.1, hm.2]
  · rw [BitVec.getLsbD_of_ge _ _ (by omega), BitVec.getLsbD_of_ge _ _ (by omega)]

end Sys2Proof.Machine
end

