-- ==== Sys2Proof/Laws/Memory.lean ====
section
/-! SUPPORT. The laws of memory: what a read gives after a write, and that every write keeps the canonical form and
the address range. -/

namespace Sys2Proof.Machine

/-! ### One byte -/

theorem Memory.read_putCell (a x : Nat) (v : Byte) (m : Memory) (hm : a = x → m.read x = unlistedByte) :
    (Memory.putCell a v m).read x = if a = x then v else m.read x := by
  unfold Memory.putCell
  by_cases hv : v = unlistedByte <;> by_cases ha : a = x <;> simp_all [Memory.read]

/-- An address below every listed one is not listed. -/
theorem Memory.read_eq_unlisted (m : Memory) (x : Nat) (h : ∀ c ∈ m, x < c.1) : m.read x = unlistedByte := by
  induction m with
  | nil => rfl
  | cons c m ih =>
    obtain ⟨k, b⟩ := c
    have hk : x < k := h (k, b) (by simp)
    have hne : (k == x) = false := by simp; omega
    simp only [Memory.read, hne]
    exact ih fun c hc => h c (by simp [hc])

theorem Memory.wf_cons {k : Nat} {b : Byte} {m : Memory} (h : Memory.wf ((k, b) :: m) = true) :
    b ≠ unlistedByte ∧ (∀ c ∈ m, k < c.1) ∧ m.wf = true := by
  simpa [Memory.wf, and_assoc] using h

/-- Read after write, in canonical memory. -/
theorem Memory.read_write (m : Memory) (hm : m.wf = true) (a x : Nat) (v : Byte) :
    (m.write a v).read x = if a = x then v else m.read x := by
  induction m with
  | nil =>
    rw [Memory.write, Memory.read_putCell _ _ _ _ fun _ => rfl]
  | cons c m ih =>
    obtain ⟨k, b⟩ := c
    obtain ⟨-, hlt, hwf⟩ := Memory.wf_cons hm
    rcases Nat.lt_trichotomy a k with h1 | h1 | h1
    · rw [Memory.write, if_pos h1, Memory.read_putCell]
      rintro rfl
      refine Memory.read_eq_unlisted _ _ fun c hc => ?_
      rcases List.mem_cons.mp hc with rfl | hc
      · exact h1
      · exact Nat.lt_trans h1 (hlt c hc)
    · subst h1
      rw [Memory.write, if_neg (Nat.lt_irrefl a), if_pos (by simp), Memory.read_putCell]
      · by_cases hx : a = x
        · simp [hx]
        · simp [Memory.read, hx]
      · rintro rfl
        exact Memory.read_eq_unlisted _ _ hlt
    · have hne : ¬a = k := by omega
      rw [Memory.write, if_neg (by omega), if_neg (by simpa using hne)]
      by_cases hkx : k = x
      · subst hkx
        simp [Memory.read, hne]
      · simp only [Memory.read, beq_iff_eq, hkx, if_false]
        exact ih hwf

theorem Memory.mem_write {m : Memory} {a : Nat} {v : Byte} {c : Host.Cell} (h : c ∈ m.write a v) :
    c.1 = a ∨ c ∈ m := by
  induction m with
  | nil =>
    simp only [Memory.write, Memory.putCell] at h
    split_ifs at h <;> simp_all
  | cons d m ih =>
    obtain ⟨k, b⟩ := d
    simp only [Memory.write, Memory.putCell] at h
    split_ifs at h
    · exact .inr h
    · rcases List.mem_cons.mp h with rfl | h
      · exact .inl rfl
      · exact .inr h
    · exact .inr (by simp [h])
    · rcases List.mem_cons.mp h with rfl | h
      · exact .inl rfl
      · exact .inr (by simp [h])
    · rcases List.mem_cons.mp h with rfl | h
      · exact .inr (by simp)
      · exact (ih h).imp id fun h => by simp [h]

theorem Memory.wf_putCell (a : Nat) (v : Byte) (m : Memory) (hm : m.wf = true) (h : ∀ c ∈ m, a < c.1) :
    (Memory.putCell a v m).wf = true := by
  unfold Memory.putCell
  split_ifs with hv
  · exact hm
  · simpa [Memory.wf, hm] using And.intro (by simpa using hv) fun x y hxy => h (x, y) hxy

/-- A write keeps the canonical form. -/
theorem Memory.wf_write (m : Memory) (hm : m.wf = true) (a : Nat) (v : Byte) : (m.write a v).wf = true := by
  induction m with
  | nil => exact Memory.wf_putCell a v [] rfl (by simp)
  | cons c m ih =>
    obtain ⟨k, b⟩ := c
    obtain ⟨hb, hlt, hwf⟩ := Memory.wf_cons hm
    unfold Memory.write
    split_ifs with h1 h2
    · refine Memory.wf_putCell a v _ hm fun c hc => ?_
      rcases List.mem_cons.mp hc with rfl | hc
      · exact h1
      · exact Nat.lt_trans h1 (hlt c hc)
    · have hk : a = k := by simpa using h2
      exact Memory.wf_putCell a v m hwf (hk ▸ hlt)
    · have hne : a ≠ k := by simpa using h2
      have hall : ∀ c ∈ Memory.write m a v, k < c.1 := fun c hc => by
        rcases Memory.mem_write hc with h | h
        · omega
        · exact hlt c h
      simpa [Memory.wf, ih hwf, hb] using fun x y h => hall (x, y) h

/-! ### Wider accesses -/

theorem Memory.wf_writeLE (n : Nat) : ∀ (m : Memory) (a v : Nat), m.wf = true → (m.writeLE a n v).wf = true := by
  induction n with
  | zero => exact fun _ _ _ h => h
  | succ n ih => exact fun m a v h => ih _ _ _ (Memory.wf_write m h a _)

theorem Memory.wf_writeBytes (bs : List Byte) :
    ∀ (m : Memory) (a : Nat), m.wf = true → (m.writeBytes a bs).wf = true := by
  induction bs with
  | nil => exact fun _ _ h => h
  | cons b bs ih => exact fun m a h => ih _ _ (Memory.wf_write m h a b)

theorem Memory.mem_writeLE (n : Nat) : ∀ (m : Memory) (a v : Nat) (c : Host.Cell), c ∈ m.writeLE a n v →
    (a ≤ c.1 ∧ c.1 < a + n) ∨ c ∈ m := by
  induction n with
  | zero => exact fun _ _ _ _ h => .inr h
  | succ n ih =>
    intro m a v c h
    rcases ih _ _ _ _ h with h | h
    · exact .inl (by omega)
    · exact (Memory.mem_write h).imp (fun h => by omega) id

/-- A byte outside the stored ones reads as before. -/
theorem Memory.read_writeLE_outside (n : Nat) : ∀ (m : Memory) (a v x : Nat), m.wf = true → (x < a ∨ a + n ≤ x) →
    (m.writeLE a n v).read x = m.read x := by
  induction n with
  | zero => exact fun _ _ _ _ _ _ => rfl
  | succ n ih =>
    intro m a v x h hx
    have hne : a ≠ x := by omega
    rw [Memory.writeLE, ih _ _ _ _ (Memory.wf_write m h a _) (by omega), Memory.read_write m h, if_neg hne]

/-- The `i`-th stored byte holds bits `8i+7:8i` of the value (R66). -/
theorem Memory.read_writeLE (n : Nat) : ∀ (m : Memory) (a v i : Nat), m.wf = true → i < n →
    (m.writeLE a n v).read (a + i) = BitVec.ofNat 8 (v / 256 ^ i) := by
  induction n with
  | zero => exact fun _ _ _ _ _ h => absurd h (Nat.not_lt_zero _)
  | succ n ih =>
    intro m a v i h hi
    have hwf := Memory.wf_write m h a (BitVec.ofNat 8 v)
    rcases i with _ | i
    · rw [Memory.writeLE, Memory.read_writeLE_outside _ _ _ _ _ hwf (by omega), Memory.read_write m h]
      simp
    · have := ih (m.write a (BitVec.ofNat 8 v)) (a + 1) (v / 256) i hwf (by omega)
      rw [Nat.add_assoc, Nat.add_comm 1 i] at this
      rw [Memory.writeLE, this, Nat.div_div_eq_div_mul, pow_succ']

/-- A read of `n` bytes depends on those bytes alone. -/
theorem Memory.readLE_congr (n : Nat) : ∀ (m m' : Memory) (a : Nat),
    (∀ x, a ≤ x → x < a + n → m.read x = m'.read x) → m.readLE a n = m'.readLE a n := by
  induction n with
  | zero => exact fun _ _ _ _ => rfl
  | succ n ih =>
    intro m m' a h
    rw [Memory.readLE, Memory.readLE, h a (by omega) (by omega), ih m m' (a + 1) fun x h1 h2 => h x (by omega) (by omega)]

theorem Memory.readLE_lt (n : Nat) : ∀ (m : Memory) (a : Nat), m.readLE a n < 256 ^ n := by
  induction n with
  | zero => exact fun _ _ => Nat.one_pos
  | succ n ih =>
    intro m a
    have h1 := ih m (a + 1)
    have h2 := (m.read a).isLt
    rw [Memory.readLE, pow_succ']
    omega

/-- The value read back is the value stored, cut to the width of the access. -/
theorem Memory.readLE_writeLE (n : Nat) : ∀ (m : Memory) (a v : Nat), m.wf = true →
    (m.writeLE a n v).readLE a n = v % 256 ^ n := by
  induction n with
  | zero => exact fun _ _ v _ => by simp [Memory.readLE, Nat.mod_one]
  | succ n ih =>
    intro m a v h
    have hwf := Memory.wf_write m h a (BitVec.ofNat 8 v)
    rw [Memory.writeLE, Memory.readLE, ih _ _ _ hwf, Memory.read_writeLE_outside _ _ _ _ _ hwf (by omega),
      Memory.read_write m h, if_pos rfl, pow_succ', BitVec.toNat_ofNat, Nat.mod_mul]

/-- Bit `i` of the value read from `a` is bit `i mod 8` of the byte at `a + i div 8` (R66). -/
theorem Memory.testBit_readLE (n : Nat) : ∀ (m : Memory) (a i : Nat), i < 8 * n →
    (m.readLE a n).testBit i = (m.read (a + i / 8)).getLsbD (i % 8) := by
  induction n with
  | zero => exact fun _ _ _ h => absurd h (by omega)
  | succ n ih =>
    intro m a i hi
    have h2 := (m.read a).isLt
    rw [Memory.readLE, Nat.add_comm, show (256 : Nat) = 2 ^ 8 from rfl, Nat.testBit_two_pow_mul_add _ h2]
    split_ifs with h8
    · rw [Nat.div_eq_of_lt h8, Nat.mod_eq_of_lt h8]; rfl
    · rw [ih m (a + 1) (i - 8) (by omega)]
      have e1 : a + 1 + (i - 8) / 8 = a + i / 8 := by omega
      have e2 : (i - 8) % 8 = i % 8 := by omega
      rw [e1, e2]

theorem Memory.read_writeBytes_outside (bs : List Byte) : ∀ (m : Memory) (a x : Nat), m.wf = true →
    (x < a ∨ a + bs.length ≤ x) → (m.writeBytes a bs).read x = m.read x := by
  induction bs with
  | nil => exact fun _ _ _ _ _ => rfl
  | cons b bs ih =>
    intro m a x h hx
    simp only [List.length_cons] at hx
    have hne : a ≠ x := by omega
    rw [Memory.writeBytes, ih _ _ _ (Memory.wf_write m h a b) (by omega), Memory.read_write m h, if_neg hne]

/-- Bytes stored as a list are read back as that list. -/
theorem Memory.readBytes_writeBytes (bs : List Byte) : ∀ (m : Memory) (a : Nat), m.wf = true →
    (m.writeBytes a bs).readBytes a bs.length = bs := by
  induction bs with
  | nil => exact fun _ _ _ => rfl
  | cons b bs ih =>
    intro m a h
    have hwf := Memory.wf_write m h a b
    rw [List.length_cons, Memory.readBytes, Memory.writeBytes, ih _ _ hwf,
      Memory.read_writeBytes_outside _ _ _ _ hwf (by omega), Memory.read_write m h, if_pos rfl]

end Sys2Proof.Machine
end

