-- ==== Sys2Proof/Laws/State.lean ====
section
/-! SUPPORT. Every field of a state after each update: the updated field holds the new value, every other its old one. -/

namespace Sys2Proof.Machine

section
variable (s : State) (v : Word)

@[simp] theorem State.setRax_cfg : (s.setRax v).cfg = s.cfg := rfl
@[simp] theorem State.setRax_rax : (s.setRax v).rax = v := rfl
@[simp] theorem State.setRax_rbx : (s.setRax v).rbx = s.rbx := rfl
@[simp] theorem State.setRax_rcx : (s.setRax v).rcx = s.rcx := rfl
@[simp] theorem State.setRax_pc : (s.setRax v).pc = s.pc := rfl
@[simp] theorem State.setRax_rflags : (s.setRax v).rflags = s.rflags := rfl
@[simp] theorem State.setRax_ds : (s.setRax v).ds = s.ds := rfl
@[simp] theorem State.setRax_crEnclaveMode : (s.setRax v).crEnclaveMode = s.crEnclaveMode := rfl
@[simp] theorem State.setRax_crElrange : (s.setRax v).crElrange = s.crElrange := rfl
@[simp] theorem State.setRax_crActiveSecs : (s.setRax v).crActiveSecs = s.crActiveSecs := rfl
@[simp] theorem State.setRax_crSgxOwnerEpoch : (s.setRax v).crSgxOwnerEpoch = s.crSgxOwnerEpoch := rfl
@[simp] theorem State.setRax_crSealFuses : (s.setRax v).crSealFuses = s.crSealFuses := rfl
@[simp] theorem State.setRax_crCpuSvn : (s.setRax v).crCpuSvn = s.crCpuSvn := rfl
@[simp] theorem State.setRax_ia32SgxLePubKeyHash : (s.setRax v).ia32SgxLePubKeyHash = s.ia32SgxLePubKeyHash := rfl
@[simp] theorem State.setRax_paging : (s.setRax v).paging = s.paging := rfl
@[simp] theorem State.setRax_epcm : (s.setRax v).epcm = s.epcm := rfl
@[simp] theorem State.setRax_secs : (s.setRax v).secs = s.secs := rfl
@[simp] theorem State.setRax_mem : (s.setRax v).mem = s.mem := rfl
@[simp] theorem State.setRax_text : (s.setRax v).text = s.text := rfl
@[simp] theorem State.setRax_draws : (s.setRax v).draws = s.draws := rfl

@[simp] theorem State.setRax_laReq : (s.setRax v).laReq = s.laReq := rfl
@[simp] theorem State.setRax_laOut : (s.setRax v).laOut = s.laOut := rfl
@[simp] theorem State.setRax_pcAdvances (k : Nat) : (s.setRax v).pcAdvances k = s.pcAdvances k := rfl
@[simp] theorem State.setRax_currentSecs : (s.setRax v).currentSecs = s.currentSecs := rfl

end

section
variable (s : State) (v : Word)

@[simp] theorem State.setRflags_cfg : (s.setRflags v).cfg = s.cfg := rfl
@[simp] theorem State.setRflags_rax : (s.setRflags v).rax = s.rax := rfl
@[simp] theorem State.setRflags_rbx : (s.setRflags v).rbx = s.rbx := rfl
@[simp] theorem State.setRflags_rcx : (s.setRflags v).rcx = s.rcx := rfl
@[simp] theorem State.setRflags_pc : (s.setRflags v).pc = s.pc := rfl
@[simp] theorem State.setRflags_rflags : (s.setRflags v).rflags = v := rfl
@[simp] theorem State.setRflags_ds : (s.setRflags v).ds = s.ds := rfl
@[simp] theorem State.setRflags_crEnclaveMode : (s.setRflags v).crEnclaveMode = s.crEnclaveMode := rfl
@[simp] theorem State.setRflags_crElrange : (s.setRflags v).crElrange = s.crElrange := rfl
@[simp] theorem State.setRflags_crActiveSecs : (s.setRflags v).crActiveSecs = s.crActiveSecs := rfl
@[simp] theorem State.setRflags_crSgxOwnerEpoch : (s.setRflags v).crSgxOwnerEpoch = s.crSgxOwnerEpoch := rfl
@[simp] theorem State.setRflags_crSealFuses : (s.setRflags v).crSealFuses = s.crSealFuses := rfl
@[simp] theorem State.setRflags_crCpuSvn : (s.setRflags v).crCpuSvn = s.crCpuSvn := rfl
@[simp] theorem State.setRflags_ia32SgxLePubKeyHash : (s.setRflags v).ia32SgxLePubKeyHash = s.ia32SgxLePubKeyHash := rfl
@[simp] theorem State.setRflags_paging : (s.setRflags v).paging = s.paging := rfl
@[simp] theorem State.setRflags_epcm : (s.setRflags v).epcm = s.epcm := rfl
@[simp] theorem State.setRflags_secs : (s.setRflags v).secs = s.secs := rfl
@[simp] theorem State.setRflags_mem : (s.setRflags v).mem = s.mem := rfl
@[simp] theorem State.setRflags_text : (s.setRflags v).text = s.text := rfl
@[simp] theorem State.setRflags_draws : (s.setRflags v).draws = s.draws := rfl

@[simp] theorem State.setRflags_laReq : (s.setRflags v).laReq = s.laReq := rfl
@[simp] theorem State.setRflags_laOut : (s.setRflags v).laOut = s.laOut := rfl
@[simp] theorem State.setRflags_pcAdvances (k : Nat) : (s.setRflags v).pcAdvances k = s.pcAdvances k := rfl
@[simp] theorem State.setRflags_currentSecs : (s.setRflags v).currentSecs = s.currentSecs := rfl

end

section
variable (s : State) (v : Word)

@[simp] theorem State.setPc_cfg : (s.setPc v).cfg = s.cfg := rfl
@[simp] theorem State.setPc_rax : (s.setPc v).rax = s.rax := rfl
@[simp] theorem State.setPc_rbx : (s.setPc v).rbx = s.rbx := rfl
@[simp] theorem State.setPc_rcx : (s.setPc v).rcx = s.rcx := rfl
@[simp] theorem State.setPc_pc : (s.setPc v).pc = v := rfl
@[simp] theorem State.setPc_rflags : (s.setPc v).rflags = s.rflags := rfl
@[simp] theorem State.setPc_ds : (s.setPc v).ds = s.ds := rfl
@[simp] theorem State.setPc_crEnclaveMode : (s.setPc v).crEnclaveMode = s.crEnclaveMode := rfl
@[simp] theorem State.setPc_crElrange : (s.setPc v).crElrange = s.crElrange := rfl
@[simp] theorem State.setPc_crActiveSecs : (s.setPc v).crActiveSecs = s.crActiveSecs := rfl
@[simp] theorem State.setPc_crSgxOwnerEpoch : (s.setPc v).crSgxOwnerEpoch = s.crSgxOwnerEpoch := rfl
@[simp] theorem State.setPc_crSealFuses : (s.setPc v).crSealFuses = s.crSealFuses := rfl
@[simp] theorem State.setPc_crCpuSvn : (s.setPc v).crCpuSvn = s.crCpuSvn := rfl
@[simp] theorem State.setPc_ia32SgxLePubKeyHash : (s.setPc v).ia32SgxLePubKeyHash = s.ia32SgxLePubKeyHash := rfl
@[simp] theorem State.setPc_paging : (s.setPc v).paging = s.paging := rfl
@[simp] theorem State.setPc_epcm : (s.setPc v).epcm = s.epcm := rfl
@[simp] theorem State.setPc_secs : (s.setPc v).secs = s.secs := rfl
@[simp] theorem State.setPc_mem : (s.setPc v).mem = s.mem := rfl
@[simp] theorem State.setPc_text : (s.setPc v).text = s.text := rfl
@[simp] theorem State.setPc_draws : (s.setPc v).draws = s.draws := rfl

@[simp] theorem State.setPc_laReq : (s.setPc v).laReq = s.laReq := rfl
@[simp] theorem State.setPc_laOut : (s.setPc v).laOut = s.laOut := rfl
@[simp] theorem State.setPc_currentSecs : (s.setPc v).currentSecs = s.currentSecs := rfl

end

section
variable (s : State) (m : Memory)

@[simp] theorem State.setMem_cfg : (s.setMem m).cfg = s.cfg := rfl
@[simp] theorem State.setMem_rax : (s.setMem m).rax = s.rax := rfl
@[simp] theorem State.setMem_rbx : (s.setMem m).rbx = s.rbx := rfl
@[simp] theorem State.setMem_rcx : (s.setMem m).rcx = s.rcx := rfl
@[simp] theorem State.setMem_pc : (s.setMem m).pc = s.pc := rfl
@[simp] theorem State.setMem_rflags : (s.setMem m).rflags = s.rflags := rfl
@[simp] theorem State.setMem_ds : (s.setMem m).ds = s.ds := rfl
@[simp] theorem State.setMem_crEnclaveMode : (s.setMem m).crEnclaveMode = s.crEnclaveMode := rfl
@[simp] theorem State.setMem_crElrange : (s.setMem m).crElrange = s.crElrange := rfl
@[simp] theorem State.setMem_crActiveSecs : (s.setMem m).crActiveSecs = s.crActiveSecs := rfl
@[simp] theorem State.setMem_crSgxOwnerEpoch : (s.setMem m).crSgxOwnerEpoch = s.crSgxOwnerEpoch := rfl
@[simp] theorem State.setMem_crSealFuses : (s.setMem m).crSealFuses = s.crSealFuses := rfl
@[simp] theorem State.setMem_crCpuSvn : (s.setMem m).crCpuSvn = s.crCpuSvn := rfl
@[simp] theorem State.setMem_ia32SgxLePubKeyHash : (s.setMem m).ia32SgxLePubKeyHash = s.ia32SgxLePubKeyHash := rfl
@[simp] theorem State.setMem_paging : (s.setMem m).paging = s.paging := rfl
@[simp] theorem State.setMem_epcm : (s.setMem m).epcm = s.epcm := rfl
@[simp] theorem State.setMem_secs : (s.setMem m).secs = s.secs := rfl
@[simp] theorem State.setMem_mem : (s.setMem m).mem = m := rfl
@[simp] theorem State.setMem_text : (s.setMem m).text = s.text := rfl
@[simp] theorem State.setMem_draws : (s.setMem m).draws = s.draws := rfl

@[simp] theorem State.setMem_laReq : (s.setMem m).laReq = s.laReq := rfl
@[simp] theorem State.setMem_laOut : (s.setMem m).laOut = s.laOut := rfl
@[simp] theorem State.setMem_pcAdvances (k : Nat) : (s.setMem m).pcAdvances k = s.pcAdvances k := rfl
@[simp] theorem State.setMem_currentSecs : (s.setMem m).currentSecs = s.currentSecs := rfl

end

section
variable (s : State) (n : Nat)

@[simp] theorem State.setDraws_cfg : (s.setDraws n).cfg = s.cfg := rfl
@[simp] theorem State.setDraws_rax : (s.setDraws n).rax = s.rax := rfl
@[simp] theorem State.setDraws_rbx : (s.setDraws n).rbx = s.rbx := rfl
@[simp] theorem State.setDraws_rcx : (s.setDraws n).rcx = s.rcx := rfl
@[simp] theorem State.setDraws_pc : (s.setDraws n).pc = s.pc := rfl
@[simp] theorem State.setDraws_rflags : (s.setDraws n).rflags = s.rflags := rfl
@[simp] theorem State.setDraws_ds : (s.setDraws n).ds = s.ds := rfl
@[simp] theorem State.setDraws_crEnclaveMode : (s.setDraws n).crEnclaveMode = s.crEnclaveMode := rfl
@[simp] theorem State.setDraws_crElrange : (s.setDraws n).crElrange = s.crElrange := rfl
@[simp] theorem State.setDraws_crActiveSecs : (s.setDraws n).crActiveSecs = s.crActiveSecs := rfl
@[simp] theorem State.setDraws_crSgxOwnerEpoch : (s.setDraws n).crSgxOwnerEpoch = s.crSgxOwnerEpoch := rfl
@[simp] theorem State.setDraws_crSealFuses : (s.setDraws n).crSealFuses = s.crSealFuses := rfl
@[simp] theorem State.setDraws_crCpuSvn : (s.setDraws n).crCpuSvn = s.crCpuSvn := rfl
@[simp] theorem State.setDraws_ia32SgxLePubKeyHash : (s.setDraws n).ia32SgxLePubKeyHash = s.ia32SgxLePubKeyHash := rfl
@[simp] theorem State.setDraws_paging : (s.setDraws n).paging = s.paging := rfl
@[simp] theorem State.setDraws_epcm : (s.setDraws n).epcm = s.epcm := rfl
@[simp] theorem State.setDraws_secs : (s.setDraws n).secs = s.secs := rfl
@[simp] theorem State.setDraws_mem : (s.setDraws n).mem = s.mem := rfl
@[simp] theorem State.setDraws_text : (s.setDraws n).text = s.text := rfl
@[simp] theorem State.setDraws_draws : (s.setDraws n).draws = n := rfl

@[simp] theorem State.setDraws_laReq : (s.setDraws n).laReq = s.laReq := rfl
@[simp] theorem State.setDraws_laOut : (s.setDraws n).laOut = s.laOut := rfl
@[simp] theorem State.setDraws_pcAdvances (k : Nat) : (s.setDraws n).pcAdvances k = s.pcAdvances k := rfl
@[simp] theorem State.setDraws_currentSecs : (s.setDraws n).currentSecs = s.currentSecs := rfl

end

section
variable (s : State) (t : ProgramText)

@[simp] theorem State.setText_cfg : (s.setText t).cfg = s.cfg := rfl
@[simp] theorem State.setText_rax : (s.setText t).rax = s.rax := rfl
@[simp] theorem State.setText_rbx : (s.setText t).rbx = s.rbx := rfl
@[simp] theorem State.setText_rcx : (s.setText t).rcx = s.rcx := rfl
@[simp] theorem State.setText_pc : (s.setText t).pc = s.pc := rfl
@[simp] theorem State.setText_rflags : (s.setText t).rflags = s.rflags := rfl
@[simp] theorem State.setText_ds : (s.setText t).ds = s.ds := rfl
@[simp] theorem State.setText_crEnclaveMode : (s.setText t).crEnclaveMode = s.crEnclaveMode := rfl
@[simp] theorem State.setText_crElrange : (s.setText t).crElrange = s.crElrange := rfl
@[simp] theorem State.setText_crActiveSecs : (s.setText t).crActiveSecs = s.crActiveSecs := rfl
@[simp] theorem State.setText_crSgxOwnerEpoch : (s.setText t).crSgxOwnerEpoch = s.crSgxOwnerEpoch := rfl
@[simp] theorem State.setText_crSealFuses : (s.setText t).crSealFuses = s.crSealFuses := rfl
@[simp] theorem State.setText_crCpuSvn : (s.setText t).crCpuSvn = s.crCpuSvn := rfl
@[simp] theorem State.setText_ia32SgxLePubKeyHash : (s.setText t).ia32SgxLePubKeyHash = s.ia32SgxLePubKeyHash := rfl
@[simp] theorem State.setText_paging : (s.setText t).paging = s.paging := rfl
@[simp] theorem State.setText_epcm : (s.setText t).epcm = s.epcm := rfl
@[simp] theorem State.setText_secs : (s.setText t).secs = s.secs := rfl
@[simp] theorem State.setText_mem : (s.setText t).mem = s.mem := rfl
@[simp] theorem State.setText_text : (s.setText t).text = t := rfl
@[simp] theorem State.setText_draws : (s.setText t).draws = s.draws := rfl

@[simp] theorem State.setText_laReq : (s.setText t).laReq = s.laReq := rfl
@[simp] theorem State.setText_laOut : (s.setText t).laOut = s.laOut := rfl
@[simp] theorem State.setText_currentSecs : (s.setText t).currentSecs = s.currentSecs := rfl

end

end Sys2Proof.Machine
end

