-- ==== Sys2Proof/Laws/Ops.lean ====
section
/-! SUPPORT. One lemma per shared operation: when it answers, and what it answers. -/

namespace Sys2Proof.Machine

/-! ### Conditions -/

theorem State.addressAccepted_iff (s : State) (r : Word) (align n : Nat) :
    s.addressAccepted r align n = true ↔ s.AddressOk r align n := by
  simp only [State.addressAccepted, Elrange.within, Bool.and_eq_true, beq_iff_eq, decide_eq_true_eq]
  exact ⟨fun ⟨⟨h1, h2⟩, h3, h4⟩ => ⟨h1, h2, h3, h4⟩, fun h => ⟨⟨h.valid, h.aligned⟩, h.low, h.high⟩⟩

/-- Clearing the low 12 bits subtracts the offset in the page (R64). -/
theorem toNat_pageBase (la : Word) : (pageBase la).toNat = la.toNat - la.toNat % 4096 := by
  have h : pageBase la = (la >>> 12) <<< 12 := by
    have mask : ∀ i, i < 64 → (~~~(0xFFF : Word)).getLsbD i = decide (12 ≤ i) := by decide
    apply BitVec.eq_of_getLsbD_eq
    intro i hi
    rw [pageBase, BitVec.getLsbD_and, mask i hi]
    by_cases h12 : i < 12
    · simp [h12, show ¬12 ≤ i by omega]
    · simp [hi, h12, show 12 ≤ i by omega, show 12 + (i - 12) = i by omega]
  rw [h, BitVec.toNat_shiftLeft, BitVec.toNat_ushiftRight, Nat.shiftRight_eq_div_pow, Nat.shiftLeft_eq]
  have := la.isLt
  rw [Nat.mod_eq_of_lt (by omega)]
  omega

theorem State.epcmAt_eq_some (s : State) (la : Word) (acc : Access) (e : EpcmEntry) :
    s.epcmAt la acc = some e ↔ ∃ pa, s.translate la acc = some pa ∧ s.epcmOf pa = some e := by
  simp [State.epcmAt, Option.bind_eq_some_iff]

theorem State.pageAccepted_iff (s : State) (la : Word) (acc : Access) :
    s.pageAccepted la acc = true ↔ s.PageOk la acc := by
  have hmap (e : EpcmEntry) : e.enclaveAddress = pageBase la ↔ e.enclaveAddress.toNat = la.toNat - la.toNat % 4096 := by
    rw [← toNat_pageBase, ← BitVec.toNat_inj]
  have hperm (e : EpcmEntry) : e.permits acc = true ↔ (match acc with | .read => e.r = true | .write => e.w = true) := by
    cases acc <;> rfl
  unfold State.pageAccepted
  constructor
  · intro h
    split at h
    · exact absurd h (by decide)
    · rename_i e he
      obtain ⟨pa, h1, h2⟩ := (s.epcmAt_eq_some la acc e).mp he
      simp only [Bool.and_eq_true, Bool.not_eq_true', beq_iff_eq, hmap, hperm] at h
      obtain ⟨⟨⟨⟨⟨⟨⟨a, b⟩, c⟩, d⟩, f⟩, g⟩, i⟩, j⟩ := h
      exact ⟨pa, e, h1, h2, a, b, c, d, f, g, i, j⟩
  · rintro ⟨pa, e, h1, h2, ok⟩
    rw [(s.epcmAt_eq_some la acc e).mpr ⟨pa, h1, h2⟩]
    simp only [Bool.and_eq_true, Bool.not_eq_true', beq_iff_eq, hmap, hperm]
    exact ⟨⟨⟨⟨⟨⟨⟨ok.valid, ok.unlocked⟩, ok.regular⟩, ok.owned⟩, ok.settled⟩, ok.intact⟩, ok.mapped⟩, ok.allowed⟩

theorem State.leafSelected_iff (s : State) : s.eax = leafSelector .egetkey ↔ s.LeafSelected := by
  rw [State.LeafSelected, ← BitVec.toNat_inj, State.eax, BitVec.toNat_setWidth]; rfl

theorem State.pcAdvances_iff (s : State) : s.pcAdvances 3 = true ↔ s.PcOk := by
  unfold State.pcAdvances State.PcOk
  cases s.cfg.mode <;> simp

theorem ProgramText.overlaps_iff (t : ProgramText) (la n : Nat) :
    t.overlaps la n = true ↔ t.start < t.stop ∧ t.start < la + n ∧ la < t.stop := by
  simp [ProgramText.overlaps, and_assoc]

/-! ### Launch premises (R222) -/

/-- `TextDisjoint` is what the step tests on completion (R81). -/
theorem State.not_overlaps_of_textDisjoint {s : State} (h : s.TextDisjoint) :
    s.text.overlaps s.laOut.toNat outputSize = false := by
  rw [← Bool.not_eq_true, ProgramText.overlaps_iff]
  rintro ⟨h1, h2, h3⟩
  have := h (max s.text.start s.laOut.toNat) (by omega) (by omega)
  simp only [outputSize] at h2
  omega

/-- `SecsPresent`: the SECS the instruction reads is a listed one. -/
theorem State.SecsPresent.mem {s : State} (h : s.SecsPresent) : (s.crActiveSecs, s.currentSecs) ∈ s.secs := by
  obtain ⟨p, hp, hid⟩ := h
  unfold State.currentSecs
  split
  · rename_i q hq
    have hq' : q.1 = s.crActiveSecs := by simpa using List.find?_some hq
    exact hq' ▸ List.mem_of_find?_eq_some hq
  · rename_i hn
    exact absurd (beq_iff_eq.mpr hid) (List.find?_eq_none.mp hn p hp)

/-- `ElrangeSane`: an accepted operand ends below the top of the 64-bit space, so no byte address of it wraps. -/
theorem State.ElrangeSane.operand_lt {s : State} {r : Word} {align n : Nat} (h : s.ElrangeSane)
    (ha : s.AddressOk r align n) : (s.linearAddress r).toNat + n < 2 ^ 64 := Nat.lt_of_le_of_lt ha.high h

/-! ### Outcomes -/

theorem firstFault_eq_none (l : List (Bool × Fault)) : firstFault l = none ↔ ∀ p ∈ l, p.1 = false := by
  induction l with
  | nil => simp [firstFault]
  | cons p l ih =>
    obtain ⟨b, f⟩ := p
    cases b <;> simp [firstFault, ih]

/-- The fault reported is a listed one whose condition holds. -/
theorem mem_of_firstFault {l : List (Bool × Fault)} {f : Fault} (h : firstFault l = some f) : (true, f) ∈ l := by
  induction l with
  | nil => simp [firstFault] at h
  | cons p l ih =>
    obtain ⟨b, g⟩ := p
    cases b
    · exact List.mem_cons_of_mem _ (ih (by simpa [firstFault] using h))
    · simp [firstFault] at h; simp [h]

/-- A completion moves `pc` and nothing else (R22). -/
theorem State.retire_eq_next {s t : State} {n : Nat} :
    s.retire n = .next t ↔ s.pcAdvances n = true ∧ t = s.setPc (s.pc + BitVec.ofNat 64 n) := by
  unfold State.retire
  split
  · rename_i h
    exact ⟨fun e => ⟨h, (Host.Outcome.next.inj e).symm⟩, fun ⟨_, e⟩ => congrArg _ e.symm⟩
  · rename_i h
    exact ⟨fun e => (nomatch e), fun ⟨e, _⟩ => absurd e h⟩

theorem State.retire_of_not {s : State} {n : Nat} (h : s.pcAdvances n = false) : s.retire n = .refused .pcOutOfRange := by
  unfold State.retire
  rw [h]
  rfl

theorem State.retire_ne_fault (s : State) (n : Nat) (f : Fault) : s.retire n ≠ .fault f := by
  unfold State.retire
  split <;> exact fun e => nomatch e

/-- What a step does around an instruction (R81). -/
theorem State.guardText_eq (s : State) (o : Result) : s.guardText o = stepOutcome s o := by
  cases o <;> simp [State.guardText, stepOutcome, ProgramText.overlaps_iff, outputSize]

/-- The drawn error code is a member of the set (R129). -/
theorem drawError_mem (es : List ErrorCode) : ∀ (e : ErrorCode) (n : Nat), drawError e es n ∈ e :: es := by
  induction es with
  | nil => simp [drawError]
  | cons e' es ih =>
    intro e n
    unfold drawError
    split
    · simp
    · exact List.mem_cons_of_mem _ (ih _ _)

/-- Every member of the set is some draw's (R129). -/
theorem drawError_surjective (es : List ErrorCode) : ∀ (e c : ErrorCode), c ∈ e :: es → ∃ n, drawError e es n = c := by
  induction es with
  | nil => intro e c h; exact ⟨0, by simpa [drawError, eq_comm] using h⟩
  | cons e' es ih =>
    intro e c h
    rcases List.mem_cons.mp h with rfl | h
    · exact ⟨0, by simp [drawError]⟩
    · obtain ⟨n, hn⟩ := ih e' c h
      exact ⟨n + 1, by simpa [drawError] using hn⟩

end Sys2Proof.Machine
end

