-- ==== Sys2Proof/Laws/Enclu.lean ====
section
/-! SUPPORT. What EGETKEY can do: the fault tests against the conditions of Safety, the key names, and the inversion of
its meaning. -/

namespace Sys2Proof.Machine

/-! ### Key names -/

/-- The five encodings are pairwise distinct (R40). -/
theorem KeyName.code_injective {k k' : KeyName} (h : k.code = k'.code) : k = k' := by
  cases k <;> cases k' <;> first | rfl | exact absurd h (by decide)

/-- The four error codes are pairwise distinct (R45). -/
theorem ErrorCode.value_injective {e e' : ErrorCode} (h : e.value = e'.value) : e = e' := by
  cases e <;> cases e' <;> first | rfl | exact absurd h (by decide)

/-- Each error code is non-zero (R45). -/
theorem ErrorCode.value_ne_zero (e : ErrorCode) : e.value ≠ 0 := by cases e <;> decide

theorem keyNameOf_eq_some (n : BitVec 16) (k : KeyName) : keyNameOf n = some k ↔ n = k.code := by
  constructor
  · intro h
    unfold keyNameOf at h
    split_ifs at h <;> simp_all
  · rintro rfl
    cases k <;> rfl

theorem keyNameOf_eq_none (n : BitVec 16) : keyNameOf n = none ↔ ∀ k : KeyName, n ≠ k.code := by
  constructor
  · rintro h k rfl
    rw [(keyNameOf_eq_some _ k).mpr rfl] at h
    exact absurd h (by simp)
  · intro h
    cases hk : keyNameOf n with
    | none => rfl
    | some k => exact absurd ((keyNameOf_eq_some n k).mp hk) (h k)

/-! ### Policy-selected temporaries (R152) -/

theorem included_not {w : Nat} (b : Bool) (v : BitVec w) : included (!b) v = if b then 0 else v := by
  cases b <;> rfl

/-- Two temporaries agree when the policy bits do, and the values do where the bit asks for them. -/
theorem included_congr {w : Nat} {b b' : Bool} {v v' : BitVec w} (hb : b = b') (hv : b = true → v = v') :
    included b v = included b' v' := by
  subst hb
  cases b
  · rfl
  · exact hv rfl

/-- Which error codes a failing check contributes. -/
theorem mem_failing {check : Bool} {c e : ErrorCode} : e ∈ failing check c ↔ e = c ∧ check = true := by
  cases check <;> simp [failing]

/-! ### The format tests -/

theorem policyReserved_iff (p : BitVec 16) : p.extractLsb' 6 10 = 0 ↔ ∀ i, 6 ≤ i → p.getLsbD i = false := by
  constructor
  · intro h i hi
    by_cases h16 : i < 16
    · have := congrArg (fun v : BitVec 10 => v.getLsbD (i - 6)) h
      simpa [show i - 6 < 10 by omega, show 6 + (i - 6) = i by omega] using this
    · exact BitVec.getLsbD_of_ge _ _ (by omega)
  · intro h
    apply BitVec.eq_of_getLsbD_eq
    intro i hi
    simp [hi, h (6 + i) (by omega)]

theorem newPolicyBits_iff (p : BitVec 16) :
    p &&& newPolicyBits = 0 ↔ ∀ i, 2 ≤ i → i ≤ 5 → p.getLsbD i = false := by
  constructor
  · intro h i h2 h5
    have := congrArg (fun v : BitVec 16 => v.getLsbD i) h
    have hb : newPolicyBits.getLsbD i = true := by interval_cases i <;> decide
    simpa [hb] using this
  · intro h
    apply BitVec.eq_of_getLsbD_eq
    intro i hi
    by_cases h2 : 2 ≤ i ∧ i ≤ 5
    · simp [h i h2.1 h2.2]
    · have hb : newPolicyBits.getLsbD i = false := by interval_cases i <;> first | omega | decide
      simp [hb]

theorem State.formatOk_iff (s : State) :
    (s.request.reservedClear = true ∧ kssViolated s.request s.currentSecs = false) ↔ s.FormatOk := by
  simp only [KeyRequest.reservedClear, kssViolated, Bool.and_eq_true, beq_iff_eq, policyReserved_iff,
    Bool.and_eq_false_iff, Bool.not_eq_false', Bool.or_eq_false_iff, bne_eq_false_iff_eq, newPolicyBits_iff]
  exact ⟨fun ⟨⟨⟨a, b⟩, c⟩, d⟩ => ⟨a, b, c, d⟩, fun h => ⟨⟨⟨h.reserved1, h.reserved2⟩, h.policy⟩, h.kss⟩⟩

/-- No fault exactly when both operands and the format are accepted (R112 to R121). -/
theorem State.egetkeyFaults_none_iff (s : State) :
    firstFault s.egetkeyFaults = none ↔ s.OperandsOk ∧ s.FormatOk := by
  rw [firstFault_eq_none, ← s.formatOk_iff]
  simp only [State.egetkeyFaults, List.forall_mem_cons, List.not_mem_nil, false_implies, implies_true, and_true,
    Bool.not_eq_false', s.addressAccepted_iff, s.pageAccepted_iff]
  exact ⟨fun ⟨a, b, c, d, e, f⟩ => ⟨⟨a, b, c, d⟩, e, f⟩, fun ⟨h, e, f⟩ => ⟨h.1, h.2, h.3, h.4, e, f⟩⟩

/-! ### The meaning, inverted -/

/-- What a completion with an error code leaves (R129). -/
def ErrorCompletion (s t : State) (e : ErrorCode) (es : List ErrorCode) : Prop :=
  t = (((s.setRax (drawError e es (Config.errorDraw s.draws)).value).setRflags
    (completionFlags s.rflags true)).setDraws (s.draws + 1)).setPc (s.pc + 3)

/-- What a completion with a key leaves (R130). -/
def KeyCompletion (s t : State) (k : KeyName) : Prop :=
  t = (((s.setMem (s.mem.writeLE s.laOut.toNat outputSize (s.outputKey k).toNat)).setRax 0).setRflags
    (completionFlags s.rflags false)).setPc (s.pc + 3)

theorem State.returnError_eq_next {s t : State} {e : ErrorCode} {es : List ErrorCode} :
    s.returnError e es = .next t ↔ s.PcOk ∧ ErrorCompletion s t e es := by
  rw [← s.pcAdvances_iff]
  simp [State.returnError, State.retire_eq_next, ErrorCompletion]

theorem State.returnKey_eq_next {s t : State} {k : KeyName} :
    s.returnKey k = .next t ↔ s.PcOk ∧ KeyCompletion s t k := by
  rw [← s.pcAdvances_iff]
  simp [State.returnKey, State.retire_eq_next, KeyCompletion]

/-- The instruction past its premises and fault tests is the CASE on the key name (R110). -/
theorem execEgetkey_dispatch {s : State} (h1 : s.InEnclave) (h2 : s.LeafSelected) (h3 : s.OperandsOk)
    (h4 : s.FormatOk) : execEgetkey s = s.dispatchKeyName := by
  have hl := s.leafSelected_iff.mpr h2
  have hn := s.egetkeyFaults_none_iff.mpr ⟨h3, h4⟩
  simp [execEgetkey, h1.1, h1.2, hl, hn]

/-- All that the instruction can do when it completes: it was accepted, and it returns an error code or a key. -/
theorem execEgetkey_next {s t : State} (h : execEgetkey s = .next t) :
    s.Accepted ∧
    ((keyNameOf s.request.keyName = none ∧ ErrorCompletion s t .invalidKeyName []) ∨
     (∃ k, keyNameOf s.request.keyName = some k ∧ s.launchSignerUnknown k = false ∧
       ((∃ e es, s.errSet k = e :: es ∧ ErrorCompletion s t e es) ∨
        (s.errSet k = [] ∧ KeyCompletion s t k)))) := by
  unfold execEgetkey at h
  split_ifs at h with hin hleaf
  have hin : s.InEnclave := by simpa [State.InEnclave] using hin
  have hleaf : s.LeafSelected := s.leafSelected_iff.mp (by simpa using hleaf)
  split at h
  · simp [raise] at h
  · rename_i hn
    obtain ⟨h3, h4⟩ := s.egetkeyFaults_none_iff.mp hn
    unfold State.dispatchKeyName at h
    split at h
    · rename_i hk
      obtain ⟨hpc, hc⟩ := State.returnError_eq_next.mp h
      exact ⟨⟨hin, hleaf, h3, h4, hpc⟩, .inl ⟨hk, hc⟩⟩
    · rename_i k hk
      split_ifs at h with hs
      have hs : s.launchSignerUnknown k = false := by simpa using hs
      split at h
      · rename_i e es he
        obtain ⟨hpc, hc⟩ := State.returnError_eq_next.mp h
        exact ⟨⟨hin, hleaf, h3, h4, hpc⟩, .inr ⟨k, hk, hs, .inl ⟨e, es, he, hc⟩⟩⟩
      · rename_i he
        obtain ⟨hpc, hc⟩ := State.returnKey_eq_next.mp h
        exact ⟨⟨hin, hleaf, h3, h4, hpc⟩, .inr ⟨k, hk, hs, .inr ⟨he, hc⟩⟩⟩

/-! ### What a completion leaves, field by field -/

section
variable {s t : State} {e : ErrorCode} {es : List ErrorCode} {k : KeyName}

theorem ErrorCompletion.rax (h : ErrorCompletion s t e es) :
    t.rax = (drawError e es (Config.errorDraw s.draws)).value := by subst h; simp
theorem ErrorCompletion.rflags (h : ErrorCompletion s t e es) : t.rflags = completionFlags s.rflags true := by
  subst h; simp
theorem ErrorCompletion.pc (h : ErrorCompletion s t e es) : t.pc = s.pc + 3 := by subst h; simp
theorem ErrorCompletion.mem (h : ErrorCompletion s t e es) : t.mem = s.mem := by subst h; simp
theorem ErrorCompletion.draws (h : ErrorCompletion s t e es) : t.draws = s.draws + 1 := by subst h; simp
theorem ErrorCompletion.sameEnvironment (h : ErrorCompletion s t e es) : SameEnvironment s t := by
  subst h; constructor <;> simp

theorem KeyCompletion.rax (h : KeyCompletion s t k) : t.rax = 0 := by subst h; simp
theorem KeyCompletion.rflags (h : KeyCompletion s t k) : t.rflags = completionFlags s.rflags false := by
  subst h; simp
theorem KeyCompletion.pc (h : KeyCompletion s t k) : t.pc = s.pc + 3 := by subst h; simp
theorem KeyCompletion.mem (h : KeyCompletion s t k) :
    t.mem = s.mem.writeLE s.laOut.toNat outputSize (s.outputKey k).toNat := by subst h; simp
theorem KeyCompletion.draws (h : KeyCompletion s t k) : t.draws = s.draws := by subst h; simp
theorem KeyCompletion.sameEnvironment (h : KeyCompletion s t k) : SameEnvironment s t := by
  subst h; constructor <;> simp

end

/-- The refusal of the EINITTOKEN arm, spelled out (R127). -/
theorem State.launchSignerUnknown_eq_false (s : State) (k : KeyName) : s.launchSignerUnknown k = false ↔
    (k = .einittoken → s.LaunchSigner) := by
  cases k <;> simp [State.launchSignerUnknown, State.LaunchSigner]

/-- The first fault of the list is the one the instruction raises (R196). -/
theorem execEgetkey_fault {s : State} (h1 : s.InEnclave) (h2 : s.LeafSelected) {f : Fault}
    (hf : firstFault s.egetkeyFaults = some f) : execEgetkey s = .fault f := by
  have hl := s.leafSelected_iff.mpr h2
  simp [execEgetkey, h1.1, h1.2, hl, hf, raise]

theorem State.dispatchKeyName_ne_fault (s : State) (f : Fault) : s.dispatchKeyName ≠ .fault f := by
  unfold State.dispatchKeyName
  split
  · exact State.retire_ne_fault _ _ _
  · split_ifs
    · exact fun e => nomatch e
    · split <;> exact State.retire_ne_fault _ _ _

/-- A fault of the instruction is the first of the list (R196). -/
theorem firstFault_of_execEgetkey {s : State} {f : Fault} (h : execEgetkey s = .fault f) :
    firstFault s.egetkeyFaults = some f := by
  unfold execEgetkey at h
  split_ifs at h
  split at h
  · rename_i g hg
    simp only [raise, Host.Outcome.fault.injEq] at h
    rw [hg, h]
  · exact absurd h (s.dispatchKeyName_ne_fault f)

/-- All that a step can do when it completes (R81): the instruction at `pc` completed, off the text. -/
theorem step_next {s t : State} (h : step s = .next t) :
    s.pcInText = true ∧ execEgetkey s = .next t ∧ ¬ s.text.overlaps s.laOut.toNat outputSize = true := by
  unfold step at h
  split_ifs at h with hpc
  split at h
  · simp at h
  · rename_i i rest hd
    cases i
    simp only [exec] at h
    cases hx : execEgetkey s with
    | next u =>
      rw [hx] at h
      simp only [State.guardText] at h
      split_ifs at h with ho
      simp only [Host.Outcome.next.injEq] at h
      exact ⟨hpc, h ▸ rfl, ho⟩
    | fault f => rw [hx] at h; simp [State.guardText] at h
    | refused r => rw [hx] at h; simp [State.guardText] at h

end Sys2Proof.Machine
end

