-- ==== Sys2Proof/Laws/PerInstr.lean ====
section
/-! SUPPORT. Statements about every instruction as syntax, one lemma per constructor. -/

namespace Sys2Proof.Laws.EncodingLength

/-- An instruction is well formed, its encoding is no longer than the longest instruction, and the decoder consumes
exactly the encoding (R90, R99). -/
def Statement (i : Instr) : Prop :=
  i.wf = true ∧ (encode i).length ≤ maxInstrBytes ∧ ∀ rest, decode (encode i ++ rest) = .ok (i, rest)

theorem egetkey : Statement .egetkey := ⟨rfl, Nat.le_refl 3, fun _ => rfl⟩

end Sys2Proof.Laws.EncodingLength
end

