-- ==== Sys2Proof/Tests/Slice0.lean ====
section
/-! SUPPORT. Tests of the decoder and of single steps, and for every statement with hypotheses a concrete state that
meets them. The states are those of spec/95_test_vectors.md part B (base state B0 and its variants); no expected value
comes from running the model. -/

open Sys2Proof Sys2Proof.Machine

namespace Sys2Proof.Tests

/-! ### Decoding (R90, R96, R99) -/

/-- The 24 bits of the word, written out from R92: byte 0 `0000_1111`, byte 1 `0000_0001`, byte 2 `1101_0111`. -/
theorem test_decode_egetkey_bits :
    decode [0b00001111, 0b00000001, 0b11010111, 0x90] = .ok (.egetkey, [0x90]) := by decide

theorem test_decode_table_word : decodeTableWord 24 0b000011110000000111010111 = some .egetkey := by decide

theorem test_decode_neighbour_refused : decode [0x0F, 0x01, 0xCF] = .error .otherOpcode := by decide

/-- V43: the three prefixed forms. -/
theorem test_decode_prefixed :
    decode [0x66, 0x0F, 0x01, 0xD7] = .error .prefixed ∧ decode [0xF3, 0x0F, 0x01, 0xD7] = .error .prefixed ∧
    decode [0x2E, 0x0F, 0x01, 0xD7] = .error .prefixed ∧ decode [0x48, 0x0F, 0x01, 0xD7] = .error .prefixed := by decide

/-- The smoke test of WellFormed: Instr has no field, so there is no check and no ill-formed term (R92). -/
theorem test_every_instr_well_formed (i : Instr) : i.wf = true := by cases i; rfl

/-! ### The base state B0 -/

/-- The SECS of B0, with the low byte of ATTRIBUTES, MRSIGNER, ISVSVN and CONFIGSVN as arguments. -/
def secsWith (low : BitVec 128) (signer : BitVec 256) : SecsRecord where
  attributes   := 0x00000000_00000003_00000000_00000000 ||| low
  miscSelect   := 1
  mrEnclave    := 0x4D45
  mrSigner     := signer
  isvProdId    := 0x0010
  isvSvn       := 0x0005
  isvExtProdId := 0x5850
  isvFamilyId  := 0xFA
  configId     := 0xC1D
  configSvn    := 0x0002
  padding      := 0x9AD

/-- An EPCM entry of B0 at a linear page, with its permissions. -/
def entryAt (page : Word) (r w : Bool) : EpcmEntry where
  valid          := true
  blocked        := false
  pt             := .ptReg
  enclaveSecs    := ⟨0⟩
  pending        := false
  modified       := false
  enclaveAddress := page
  r              := r
  w              := w

/-- The nine EPC pages of B0: PgA, PgB, PgC (blocked), PgD (another enclave's), PgF, PgG (not regular), PgT, PgH (mapped
elsewhere), PgL; PgE is no EPC page. -/
def pages : List EpcPage :=
  [ ⟨0x10001, entryAt 0x10001000 true true⟩,
    ⟨0x10002, entryAt 0x10002000 true false⟩,
    ⟨0x10003, { entryAt 0x10003000 true true with blocked := true }⟩,
    ⟨0x10004, { entryAt 0x10004000 true true with enclaveSecs := ⟨1⟩ }⟩,
    ⟨0x10006, entryAt 0x10006000 false true⟩,
    ⟨0x10007, { entryAt 0x10007000 true true with pt := .ptTcs }⟩,
    ⟨0x10008, entryAt 0x10008000 true true⟩,
    ⟨0x10009, entryAt 0x1000A000 true true⟩,
    ⟨0x100FF, entryAt 0x100FF000 true true⟩ ]

/-- B0 with a KEYREQUEST (offset and bytes of its fields), an SECS, and the bytes of the program text. -/
def stateWith (req : List (Nat × List Byte)) (c : SecsRecord) (text : List Byte) : State :=
  { State.reset with
    rax := 1, rbx := 0x10001000, rcx := 0x10001200, pc := 0x10008000, rflags := 0x8D7
    crElrange := ⟨0x10000000, 0x100000⟩
    crSgxOwnerEpoch := 0x0E, crSealFuses := 0xF5, crCpuSvn := 0xC5, ia32SgxLePubKeyHash := 0x1A5
    paging := .identity, epcm := pages, secs := [(⟨0⟩, c)]
    mem := req.foldl (fun m f => Memory.writeBytes m (0x10001000 + f.1) f.2)
      (Memory.writeBytes (Memory.writeBytes [] 0x10001200 (List.replicate 16 0xAA)) 0x10008000 text)
    text := ⟨0x10008000, 0x10008000 + text.length⟩ }

/-- The bytes of the one-instruction text of P1. -/
def enclu : List Byte := [0x0F, 0x01, 0xD7]
/-- S0 of B0: KSS, no PROVISIONKEY, no EINITTOKEN_KEY. -/
def s0 : SecsRecord := secsWith 0x85 0x3513
/-- S0[KSS=0]. -/
def s0NoKss : SecsRecord := secsWith 0x05 0x3513
/-- S0[PROV]. -/
def s0Prov : SecsRecord := secsWith 0x95 0x3513
/-- S0[LAUNCH] with MRSIGNER equal to IA32_SGXLEPUBKEYHASH. -/
def s0Launch : SecsRecord := secsWith 0xA5 0x1A5
/-- B0 with the KEYREQUEST of a vector. -/
def b0 (req : List (Nat × List Byte)) (c : SecsRecord) : State := stateWith req c enclu

/-- V1: REPORT_KEY, everything else zero. -/
def v1 : State := b0 [(0, [3])] s0
/-- The request fields V4, V8, V9 and V11 share: ISVSVN 5 and CPUSVN = CR_CPUSVN. -/
def svns : List (Nat × List Byte) := [(4, [5]), (8, [0xC5])]
/-- V4: SEAL_KEY with the signer policy. -/
def v4 : State := b0 ((0, [4]) :: (2, [2]) :: svns ++ [(24, [4]), (40, [0xDD]), (72, [0xFF, 0xFF, 0xFF, 0xFF])]) s0
/-- V8: PROVISION_KEY, authorised. -/
def v8 : State := b0 ((0, [1]) :: svns ++ [(24, [0x10]), (40, [0xDD])]) s0Prov
/-- V9: PROVISION_SEAL_KEY with the configuration policy. -/
def v9 : State := b0 ((0, [2]) :: (2, [8]) :: svns ++ [(76, [2])]) s0Prov
/-- V11: EINITTOKEN_KEY, authorised. -/
def v11 : State := b0 ((0, [0]) :: svns ++ [(24, [0x20]), (40, [0xDD])]) s0Launch
/-- V20: SEAL_KEY, ISVSVN beyond. -/
def v20 : State := b0 [(0, [4]), (2, [2]), (4, [6]), (8, [0xC5])] s0
/-- V24: an invalid key name. -/
def v24 : State := b0 [(0, [5])] s0

/-! ### From a Boolean check to the conditions of the statements -/

/-- The premises and the fault tests of the instruction. -/
def enters (s : State) : Bool := s.cfg.hasSgx1 && s.crEnclaveMode && s.eax == 1
def operandsAccepted (s : State) : Bool :=
  s.addressAccepted s.rbx 512 512 && s.pageAccepted s.laReq .read &&
  s.addressAccepted s.rcx 16 16 && s.pageAccepted s.laOut .write
/-- No byte of `[a, a + n)` is listed, so the range reads as zero. -/
def quiet (m : Memory) (a n : Nat) : Bool := m.all (fun c => c.1 < a || a + n ≤ c.1)
def formatAccepted (s : State) : Bool :=
  quiet s.mem (s.laReq.toNat + 78) 434 && s.request.reserved1 == 0 && s.request.keyPolicy.extractLsb' 6 10 == 0 &&
  !kssViolated s.request s.currentSecs
def accepted (s : State) : Bool := enters s && operandsAccepted s && formatAccepted s && s.pcAdvances 3

theorem of_enters {s : State} (h : enters s = true) : s.InEnclave ∧ s.LeafSelected := by
  simp only [enters, Bool.and_eq_true, beq_iff_eq] at h
  exact ⟨h.1, s.leafSelected_iff.mp h.2⟩

theorem of_operandsAccepted {s : State} (h : operandsAccepted s = true) : s.OperandsOk := by
  simp only [operandsAccepted, Bool.and_eq_true, State.addressAccepted_iff, State.pageAccepted_iff] at h
  exact ⟨h.1.1.1, h.1.1.2, h.1.2, h.2⟩

theorem read_of_quiet {m : Memory} {a n x : Nat} (h : quiet m a n = true) (ha : a ≤ x) (hn : x < a + n) :
    m.read x = 0 := by
  induction m with
  | nil => rfl
  | cons c m ih =>
    simp only [quiet, List.all_cons, Bool.and_eq_true, Bool.or_eq_true, decide_eq_true_eq] at h
    have hc : (c.1 == x) = false := by simp only [beq_eq_false_iff_ne]; omega
    simp only [Memory.read, hc]
    exact ih h.2

theorem readLE_of_quiet (n : Nat) : ∀ (m : Memory) (a : Nat), (∀ x, a ≤ x → x < a + n → m.read x = 0) →
    m.readLE a n = 0 := by
  induction n with
  | zero => exact fun _ _ _ => rfl
  | succ n ih =>
    intro m a h
    simp [Memory.readLE, h a (Nat.le_refl _) (by omega), ih m (a + 1) fun x h1 h2 => h x (by omega) (by omega)]

theorem of_formatAccepted {s : State} (h : formatAccepted s = true) : s.FormatOk := by
  simp only [formatAccepted, Bool.and_eq_true, Bool.not_eq_true'] at h
  obtain ⟨⟨⟨hq, h1⟩, hp⟩, hk⟩ := h
  have h2 : s.request.reserved2 = 0 := by
    show BitVec.ofNat 3472 (s.mem.readLE (s.laReq.toNat + 78) 434) = 0
    rw [readLE_of_quiet _ _ _ fun x ha hn => read_of_quiet hq ha hn]
    rfl
  refine s.formatOk_iff.mp ⟨?_, hk⟩
  rw [KeyRequest.reservedClear, h1, hp, beq_iff_eq.mpr h2]
  decide

theorem of_accepted {s : State} (h : accepted s = true) : s.Accepted := by
  simp only [accepted, Bool.and_eq_true] at h
  exact ⟨(of_enters h.1.1.1).1, (of_enters h.1.1.1).2, of_operandsAccepted h.1.1.2, of_formatAccepted h.1.2,
    s.pcAdvances_iff.mp h.2⟩

/-- The instruction completes with a state of which `p` holds. -/
def completes (s : State) (p : State → Bool) : Bool :=
  enters s && operandsAccepted s && formatAccepted s &&
  match s.dispatchKeyName with
  | .next t => p t
  | .fault _ => false
  | .refused _ => false

theorem exists_of_completes {s : State} {p : State → Bool} (h : completes s p = true) :
    ∃ t, exec .egetkey s = .next t ∧ p t = true := by
  simp only [completes, Bool.and_eq_true] at h
  obtain ⟨⟨⟨he, ho⟩, hf⟩, hd⟩ := h
  have hx : exec .egetkey s = s.dispatchKeyName :=
    execEgetkey_dispatch (of_enters he).1 (of_enters he).2 (of_operandsAccepted ho) (of_formatAccepted hf)
  rw [hx]
  split at hd
  · rename_i t ht
    exact ⟨t, ht, hd⟩
  · cases hd
  · cases hd

/-! ### One step (expected results from V15, V23 and P1, P3 of spec/95_test_vectors.md) -/

/-- V15 and P1: the upper half of RAX does not take part, RAX and the six flags are cleared, `pc` moves by 3. -/
theorem test_egetkey_success :
    completes (v1.setRax 0xDEADBEEF00000001) (fun t =>
      t.rax == 0 && t.rflags == 0x2 && t.pc == 0x10008003) = true := by decide +kernel

/-- V20: RAX = 64, ZF alone set, the 16 bytes at OUTPUTDATA still AA. -/
theorem test_egetkey_isvsvn_beyond :
    completes v20 (fun t =>
      t.rax == 0x40 && t.rflags == 0x42 && t.mem.readBytes 0x10001200 16 == List.replicate 16 0xAA) = true := by
  decide +kernel

/-! ### Witnesses: encoding and step -/

/-- `66` and 15 times `F3` before `0F 01 D7`, in the text at `pc`: R99 puts no limit on the prefixes. -/
def prefixedState : State := stateWith [] s0 (0x66 :: List.replicate 15 0xF3 ++ enclu)

theorem witness_PrefixedFormsRefused :
    prefixedState.text.start ≤ prefixedState.pc.toNat ∧ prefixedState.pc.toNat < prefixedState.text.stop ∧
    (∀ b ∈ (0x66 : Byte) :: List.replicate 15 0xF3, isPrefixByte b = true) ∧
    prefixedState.fetchBytes = 0x66 :: List.replicate 15 0xF3 ++ encode .egetkey ++ [] := by decide +kernel

theorem witness_StepRunsDecodedInstr :
    v1.text.start ≤ v1.pc.toNat ∧ v1.pc.toNat < v1.text.stop ∧ decode v1.fetchBytes = .ok (.egetkey, []) := by
  decide +kernel

theorem witness_EncluBytesAtPcRun :
    v1.text.start ≤ v1.pc.toNat ∧ v1.pc.toNat + 3 ≤ v1.text.stop ∧ v1.mem.read v1.pc.toNat = 0x0F ∧
    v1.mem.read (v1.pc.toNat + 1) = 0x01 ∧ v1.mem.read (v1.pc.toNat + 2) = 0xD7 := by decide +kernel

theorem witness_LoadedEncluRuns : v1.mem.wf = true ∧ State.reset.mem.wf = true := by decide +kernel

/-- The end of the text, a byte before it, and a byte past its end. -/
theorem witness_StepOutsideTextRefused :
    (let s := v1.setPc 0x10008003; s.text.start ≤ s.pc.toNat ∧ s.pc.toNat = s.text.stop) ∧
    (let s := v1.setPc 0x10007FFF; s.pc.toNat < s.text.start) ∧
    (let s := v1.setPc 0x10008004; s.text.stop < s.pc.toNat) := by decide +kernel

/-! ### Witnesses: premises -/

/-- B0 with its parameters changed. -/
def withCfg (s : State) (c : Config) : State := { s with cfg := c }

theorem witness_RefusedOutsideEnclave :
    (withCfg v1 { v1.cfg with hasSgx1 := false }).cfg.hasSgx1 = false ∧
    (show State from { v1 with crEnclaveMode := false }).crEnclaveMode = false := ⟨rfl, rfl⟩

/-- V42: EAX = 0 in a register whose upper half is 1. -/
theorem witness_OtherLeafRefused :
    (v1.setRax 0x0000000100000000).InEnclave ∧ (v1.setRax 0x0000000100000000).rax.toNat % 2 ^ 32 ≠ 1 :=
  ⟨⟨rfl, rfl⟩, by decide⟩

theorem witness_NoSecondKeyWithoutReload : ∃ t, exec .egetkey v1 = .next t :=
  let ⟨t, h, _⟩ := exists_of_completes (s := v1) (p := fun _ => true) (by decide +kernel); ⟨t, h⟩

/-- In Mode64 the top of the space and the edge of the canonical half; in Prot32 the top of the space. -/
theorem witness_PcAtTopRefused :
    ∀ s ∈ [v1.setPc 0xFFFFFFFFFFFFFFFD, v1.setPc 0x00007FFFFFFFFFFD,
        (withCfg { v1 with ds := ⟨0, 0xFFFFFFFF⟩ } { v1.cfg with mode := .prot32 }).setPc 0xFFFFFFFD],
      s.InEnclave ∧ s.LeafSelected ∧ s.OperandsOk ∧ s.FormatOk ∧ ¬ s.PcOk ∧
      (s.request.keyName = KeyName.code .einittoken → s.LaunchSigner) := by
  have h : ∀ s ∈ [v1.setPc 0xFFFFFFFFFFFFFFFD, v1.setPc 0x00007FFFFFFFFFFD,
        (withCfg { v1 with ds := ⟨0, 0xFFFFFFFF⟩ } { v1.cfg with mode := .prot32 }).setPc 0xFFFFFFFD],
      (enters s && operandsAccepted s && formatAccepted s) = true ∧ s.pcAdvances 3 = false ∧
      s.request.keyName ≠ KeyName.code .einittoken := by decide +kernel
  intro s hs
  obtain ⟨h1, h2, h3⟩ := h s hs
  simp only [Bool.and_eq_true] at h1
  refine ⟨(of_enters h1.1.1).1, (of_enters h1.1.1).2, of_operandsAccepted h1.1.2, of_formatAccepted h1.2, ?_,
    fun e => absurd e h3⟩
  rw [← s.pcAdvances_iff, h2]
  decide

/-! ### Witnesses: faults -/

/-- V1 with another RBX or RCX. -/
def rbxTo (r : Word) : State := { v1 with rbx := r }
def rcxTo (r : Word) : State := { v1 with rcx := r }

/-- V30, V31, V32: not canonical; misaligned; below the range by one operand; just past its end. -/
theorem witness_KeyrequestAddressFault :
    (∀ s ∈ [rbxTo 0x0000800000000000, rbxTo 0x10001100, rbxTo 0x0FFFFE00, rbxTo 0x10100000], enters s = true) ∧
    (rbxTo 0x0000800000000000).addressValid 0x0000800000000000 512 = false ∧
    (rbxTo 0x10001100).laReq.toNat % 512 ≠ 0 ∧
    (rbxTo 0x0FFFFE00).laReq.toNat < (rbxTo 0x0FFFFE00).crElrange.base.toNat ∧
    (rbxTo 0x10100000).crElrange.base.toNat + (rbxTo 0x10100000).crElrange.size.toNat <
      (rbxTo 0x10100000).laReq.toNat + 512 := by decide +kernel

/-- An operand address accepted, its page not: blocked, another enclave's, no EPC page, no `R`, not regular, mapped
elsewhere (V33), and, on PgA, not translated, not valid, pending, modified. -/
def badRequestPages : List State :=
  [ rbxTo 0x10003200, rbxTo 0x10004000, rbxTo 0x10005000, rbxTo 0x10006000, rbxTo 0x10007000, rbxTo 0x10009000,
    { v1 with paging := .mapped [] },
    { v1 with epcm := [⟨0x10001, { entryAt 0x10001000 true true with valid := false }⟩] },
    { v1 with epcm := [⟨0x10001, { entryAt 0x10001000 true true with pending := true }⟩] },
    { v1 with epcm := [⟨0x10001, { entryAt 0x10001000 true true with modified := true }⟩] } ]

theorem witness_KeyrequestPageFault :
    ∀ s ∈ badRequestPages, s.InEnclave ∧ s.LeafSelected ∧ s.AddressOk s.rbx 512 512 ∧
      s.pageAccepted s.laReq .read = false := by
  have h : ∀ s ∈ badRequestPages, enters s = true ∧ s.addressAccepted s.rbx 512 512 = true ∧
      s.pageAccepted s.laReq .read = false := by decide +kernel
  intro s hs
  obtain ⟨h1, h2, h3⟩ := h s hs
  exact ⟨(of_enters h1).1, (of_enters h1).2, (s.addressAccepted_iff _ _ _).mp h2, h3⟩

/-- The three clauses of the statement, one state each: V33's PgE, PgF, and V1 with no translation. -/
theorem witness_KeyrequestPageFault_clauses :
    (show State from { v1 with paging := .mapped [] }).translate 0x10001000 .read = none ∧
    ((rbxTo 0x10005000).translate 0x10005000 .read = some 0x10005000 ∧
      (rbxTo 0x10005000).epcmOf 0x10005000 = none) ∧
    ((rbxTo 0x10006000).translate 0x10006000 .read = some 0x10006000 ∧
      (rbxTo 0x10006000).epcmOf 0x10006000 = some (entryAt 0x10006000 false true)) := by decide +kernel

/-- V34: misaligned; just past the end of the enclave; with them, not canonical and below the range. -/
theorem witness_OutputAddressFault :
    (∀ s ∈ [rcxTo 0x0000800000000000, rcxTo 0x10001208, rcxTo 0x0FFFFFF0, rcxTo 0x10100000],
      s.InEnclave ∧ s.LeafSelected ∧ s.AddressOk s.rbx 512 512 ∧ s.PageOk s.laReq .read) ∧
    (rcxTo 0x0000800000000000).addressValid 0x0000800000000000 16 = false ∧
    (rcxTo 0x10001208).laOut.toNat % 16 ≠ 0 ∧
    (rcxTo 0x0FFFFFF0).laOut.toNat < (rcxTo 0x0FFFFFF0).crElrange.base.toNat ∧
    (rcxTo 0x10100000).crElrange.base.toNat + (rcxTo 0x10100000).crElrange.size.toNat <
      (rcxTo 0x10100000).laOut.toNat + 16 := by
  have h : ∀ s ∈ [rcxTo 0x0000800000000000, rcxTo 0x10001208, rcxTo 0x0FFFFFF0, rcxTo 0x10100000],
      enters s = true ∧ s.addressAccepted s.rbx 512 512 = true ∧ s.pageAccepted s.laReq .read = true := by
    decide +kernel
  refine ⟨fun s hs => ?_, by decide +kernel⟩
  obtain ⟨h1, h2, h3⟩ := h s hs
  exact ⟨(of_enters h1).1, (of_enters h1).2, (s.addressAccepted_iff _ _ _).mp h2, (s.pageAccepted_iff _ _).mp h3⟩

/-- V35 and V12: the page of OUTPUTDATA without `W`, blocked, and write-only (which is accepted). -/
theorem witness_OutputPageFault :
    (∀ s ∈ [rcxTo 0x10002000, rcxTo 0x10003010, rcxTo 0x10005000, rcxTo 0x10006000],
      s.InEnclave ∧ s.LeafSelected ∧ s.AddressOk s.rbx 512 512 ∧ s.PageOk s.laReq .read ∧ s.AddressOk s.rcx 16 16) ∧
    (rcxTo 0x10002000).pageAccepted 0x10002000 .write = false ∧
    (rcxTo 0x10003010).pageAccepted 0x10003010 .write = false ∧
    (rcxTo 0x10005000).pageAccepted 0x10005000 .write = false ∧
    (rcxTo 0x10006000).pageAccepted 0x10006000 .write = true := by
  have h : ∀ s ∈ [rcxTo 0x10002000, rcxTo 0x10003010, rcxTo 0x10005000, rcxTo 0x10006000], enters s = true ∧
      s.addressAccepted s.rbx 512 512 = true ∧ s.pageAccepted s.laReq .read = true ∧
      s.addressAccepted s.rcx 16 16 = true := by decide +kernel
  refine ⟨fun s hs => ?_, by decide +kernel⟩
  obtain ⟨h1, h2, h3, h4⟩ := h s hs
  exact ⟨(of_enters h1).1, (of_enters h1).2, (s.addressAccepted_iff _ _ _).mp h2, (s.pageAccepted_iff _ _).mp h3,
    (s.addressAccepted_iff _ _ _).mp h4⟩

/-- V37: the first and the last byte of each reserved region, and KEYPOLICY bits 6 and 15. -/
def reservedStates : List State :=
  [ b0 [(0, [3]), (6, [1])] s0, b0 [(0, [3]), (7, [0x80])] s0, b0 [(0, [5]), (78, [1])] s0,
    b0 [(0, [3]), (511, [0x80])] s0, b0 [(0, [3]), (2, [0x40])] s0, b0 [(0, [3]), (3, [0x80])] s0 ]

theorem witness_ReservedSpaceFault :
    (∀ s ∈ reservedStates, s.InEnclave ∧ s.LeafSelected ∧ s.OperandsOk) ∧
    (b0 [(0, [3]), (6, [1])] s0).mem.read (0x10001000 + 6) ≠ 0 ∧
    (b0 [(0, [3]), (7, [0x80])] s0).mem.read (0x10001000 + 7) ≠ 0 ∧
    (b0 [(0, [5]), (78, [1])] s0).mem.read (0x10001000 + 78) ≠ 0 ∧
    (b0 [(0, [3]), (511, [0x80])] s0).mem.read (0x10001000 + 511) ≠ 0 ∧
    (b0 [(0, [3]), (2, [0x40])] s0).request.keyPolicy.getLsbD 6 = true ∧
    (b0 [(0, [3]), (3, [0x80])] s0).request.keyPolicy.getLsbD 15 = true := by
  have h : ∀ s ∈ reservedStates, enters s = true ∧ operandsAccepted s = true := by decide +kernel
  refine ⟨fun s hs => ?_, by decide +kernel⟩
  exact ⟨(of_enters (h s hs).1).1, (of_enters (h s hs).1).2, of_operandsAccepted (h s hs).2⟩

/-- V38: KEYPOLICY bit 2, bit 5, and CONFIGSVN 1 without KSS; and a request that passes the gate. -/
def kssStates : List State :=
  [ b0 [(0, [4]), (2, [0x04])] s0NoKss, b0 [(0, [4]), (2, [0x20])] s0NoKss, b0 [(0, [3]), (76, [1])] s0NoKss,
    b0 [(0, [4]), (2, [3]), (4, [5]), (8, [0xC5])] s0NoKss ]

theorem witness_KssGate :
    (∀ s ∈ kssStates, s.InEnclave ∧ s.LeafSelected ∧ s.OperandsOk ∧ s.currentSecs.attributes.getLsbD 7 = false) ∧
    (b0 [(0, [4]), (2, [0x04])] s0NoKss).request.keyPolicy.getLsbD 2 = true ∧
    (b0 [(0, [4]), (2, [0x20])] s0NoKss).request.keyPolicy.getLsbD 5 = true ∧
    (b0 [(0, [3]), (76, [1])] s0NoKss).request.configSvn ≠ 0 ∧
    ∃ t, exec .egetkey (b0 [(0, [4]), (2, [3]), (4, [5]), (8, [0xC5])] s0NoKss) = .next t := by
  have h : ∀ s ∈ kssStates, enters s = true ∧ operandsAccepted s = true ∧
      s.currentSecs.attributes.getLsbD 7 = false := by decide +kernel
  refine ⟨fun s hs => ?_, by decide +kernel, by decide +kernel, by decide +kernel, ?_⟩
  · exact ⟨(of_enters (h s hs).1).1, (of_enters (h s hs).1).2, of_operandsAccepted (h s hs).2.1, (h s hs).2.2⟩
  · obtain ⟨t, ht, -⟩ := exists_of_completes (s := b0 [(0, [4]), (2, [3]), (4, [5]), (8, [0xC5])] s0NoKss)
      (p := fun _ => true) (by decide +kernel)
    exact ⟨t, ht⟩

/-- The class of the fault the instruction raises. -/
def faultClass (s : State) : Option (Option Word) :=
  match exec .egetkey s with
  | .fault .gp0 => some none
  | .fault (.pageFault la _) => some (some la)
  | .next _ => none
  | .refused _ => none

theorem witness_OnlyTwoFaultClasses :
    faultClass (rbxTo 0x10001100) = some none ∧ faultClass (rbxTo 0x10003200) = some (some 0x10003200) ∧
    faultClass (rcxTo 0x10002000) = some (some 0x10002000) := by decide +kernel

/-! ### Witnesses: results -/

/-- A state of each key name that meets the hypotheses of SuccessfulReturn. -/
def successes : List (State × KeyName) := [(v1, .report), (v4, .seal), (v8, .provision), (v9, .provisionSeal), (v11, .einittoken)]

theorem successes_meet : ∀ p ∈ successes, accepted p.1 = true ∧ p.1.mem.wf = true ∧ p.1.request.keyName = p.2.code ∧
    p.1.errSet p.2 = [] ∧ (p.2 = .einittoken → p.1.currentSecs.mrSigner = p.1.ia32SgxLePubKeyHash) := by
  decide +kernel

theorem witness_SuccessfulReturn : ∀ p ∈ successes, p.1.Accepted ∧ p.1.mem.wf = true ∧
    p.1.request.keyName = p.2.code ∧ p.1.errSet p.2 = [] ∧
    (p.2 = .einittoken → p.1.LaunchSigner) := fun p hp =>
  let ⟨ha, hw, hn, he, hl⟩ := successes_meet p hp
  ⟨of_accepted ha, hw, hn, he, fun h _ => hl h⟩

/-- V20, V25, V26, V27 and a launch enclave with ISVSVN beyond. -/
def failures : List (State × KeyName) :=
  [ (v20, .seal), (b0 ((0, [1]) :: svns) s0, .provision), (b0 ((0, [2]) :: svns) s0, .provisionSeal),
    (b0 [] s0, .einittoken), (b0 [(4, [6]), (8, [0xC5])] s0Launch, .einittoken) ]

theorem failures_meet : ∀ p ∈ failures, accepted p.1 = true ∧ p.1.request.keyName = p.2.code ∧
    (p.2 = .einittoken → p.1.currentSecs.einittokenKey = true →
      p.1.currentSecs.mrSigner = p.1.ia32SgxLePubKeyHash) := by decide +kernel

theorem failures_fail :
    ErrorCode.invalidIsvSvn ∈ v20.errSet .seal ∧
    ErrorCode.invalidAttribute ∈ (b0 ((0, [1]) :: svns) s0).errSet .provision ∧
    ErrorCode.invalidAttribute ∈ (b0 ((0, [2]) :: svns) s0).errSet .provisionSeal ∧
    ErrorCode.invalidAttribute ∈ (b0 [] s0).errSet .einittoken ∧
    ErrorCode.invalidIsvSvn ∈ (b0 [(4, [6]), (8, [0xC5])] s0Launch).errSet .einittoken := by
  refine ⟨by decide +kernel, by decide +kernel, by decide +kernel, ?_, by decide +kernel⟩
  have h : (b0 [] s0).currentSecs.einittokenKey = false := by decide +kernel
  simp [State.errSet, mem_failing, h]

theorem witness_ErrorReturn : ∀ p ∈ failures, p.1.Accepted ∧ p.1.request.keyName = p.2.code ∧ p.1.errSet p.2 ≠ [] ∧
    (p.2 = .einittoken → p.1.LaunchSigner) := by
  intro p hp
  refine ⟨of_accepted (failures_meet p hp).1, (failures_meet p hp).2.1, ?_, (failures_meet p hp).2.2⟩
  obtain ⟨h1, h2, h3, h4, h5⟩ := failures_fail
  simp only [failures, List.mem_cons, List.not_mem_nil, or_false] at hp
  rcases hp with rfl | rfl | rfl | rfl | rfl
  · exact List.ne_nil_of_mem h1
  · exact List.ne_nil_of_mem h2
  · exact List.ne_nil_of_mem h3
  · exact List.ne_nil_of_mem h4
  · exact List.ne_nil_of_mem h5

/-- V24, with the smallest and the largest invalid key name. -/
theorem witness_InvalidKeyName :
    ∀ s ∈ [v24, b0 [(0, [0xFF, 0xFF])] s0], s.Accepted ∧ ∀ k : KeyName, s.request.keyName ≠ k.code := by
  have h : ∀ s ∈ [v24, b0 [(0, [0xFF, 0xFF])] s0], accepted s = true ∧ keyNameOf s.request.keyName = none := by
    decide +kernel
  exact fun s hs => ⟨of_accepted (h s hs).1, (keyNameOf_eq_none _).mp (h s hs).2⟩

/-- V4 and V5, every policy bit, and equality of both version numbers (R133 (i)). -/
def v5 : State := b0 [(0, [4]), (2, [0x3F]), (4, [5]), (8, [0xC5]), (76, [2])] s0

theorem witness_SealKeyData : ∀ s ∈ [v4, v5], s.Accepted ∧ s.mem.wf = true ∧
    s.request.keyName = KeyName.code .seal ∧ s.beyondCpu s.request = false ∧
    s.request.isvSvn.toNat ≤ s.currentSecs.isvSvn.toNat ∧
    s.request.configSvn.toNat ≤ s.currentSecs.configSvn.toNat := by
  have h : ∀ s ∈ [v4, v5], accepted s = true ∧ s.mem.wf = true ∧
    s.request.keyName = KeyName.code .seal ∧ s.beyondCpu s.request = false ∧
    s.request.isvSvn.toNat ≤ s.currentSecs.isvSvn.toNat ∧
    s.request.configSvn.toNat ≤ s.currentSecs.configSvn.toNat := by decide +kernel
  exact fun s hs => ⟨of_accepted (h s hs).1, (h s hs).2⟩

theorem witness_ReportKeyData : v1.Accepted ∧ v1.mem.wf = true ∧ v1.request.keyName = KeyName.code .report :=
  ⟨of_accepted (by decide +kernel), by decide +kernel⟩

theorem witness_EinittokenKeyData : v11.Accepted ∧ v11.mem.wf = true ∧
    v11.request.keyName = KeyName.code .einittoken ∧ v11.currentSecs.attributes.getLsbD 5 = true ∧
    v11.currentSecs.mrSigner = v11.ia32SgxLePubKeyHash ∧ v11.beyondCpu v11.request = false ∧
    v11.request.isvSvn.toNat ≤ v11.currentSecs.isvSvn.toNat :=
  ⟨of_accepted (by decide +kernel), by decide +kernel⟩

theorem witness_ProvisionKeyData : v8.Accepted ∧ v8.mem.wf = true ∧
    v8.request.keyName = KeyName.code .provision ∧ v8.currentSecs.attributes.getLsbD 4 = true ∧
    v8.beyondCpu v8.request = false ∧ v8.request.isvSvn.toNat ≤ v8.currentSecs.isvSvn.toNat :=
  ⟨of_accepted (by decide +kernel), by decide +kernel⟩

/-- V9 under both values of `provseal_checks_configsvn`. -/
theorem witness_ProvisionSealKeyData :
    ∀ s ∈ [v9, withCfg v9 { v9.cfg with provsealChecksConfigsvn := true }], s.Accepted ∧ s.mem.wf = true ∧
    s.request.keyName = KeyName.code .provisionSeal ∧ s.currentSecs.attributes.getLsbD 4 = true ∧
    s.beyondCpu s.request = false ∧ s.request.isvSvn.toNat ≤ s.currentSecs.isvSvn.toNat ∧
    (s.cfg.provsealChecksConfigsvn = true → s.request.configSvn.toNat ≤ s.currentSecs.configSvn.toNat) := by
  have h : ∀ s ∈ [v9, withCfg v9 { v9.cfg with provsealChecksConfigsvn := true }],
    accepted s = true ∧ s.mem.wf = true ∧
    s.request.keyName = KeyName.code .provisionSeal ∧ s.currentSecs.attributes.getLsbD 4 = true ∧
    s.beyondCpu s.request = false ∧ s.request.isvSvn.toNat ≤ s.currentSecs.isvSvn.toNat ∧
    (s.cfg.provsealChecksConfigsvn = true → s.request.configSvn.toNat ≤ s.currentSecs.configSvn.toNat) := by
    decide +kernel
  exact fun s hs => ⟨of_accepted (h s hs).1, (h s hs).2⟩

/-! ### Witnesses: error checks -/

theorem witness_SealKeyChecks : ∀ s ∈ [v4, v20], s.Accepted ∧ s.request.keyName = KeyName.code .seal := by
  have h : ∀ s ∈ [v4, v20], accepted s = true ∧ s.request.keyName = KeyName.code .seal := by decide +kernel
  exact fun s hs => ⟨of_accepted (h s hs).1, (h s hs).2⟩

/-- V1 and V2: the ignored fields, all set. -/
def v2 : State :=
  b0 [(0, [3]), (2, [3]), (4, [0xFF, 0xFF]), (8, [1, 2, 3]), (24, List.replicate 16 0xFF),
    (72, [0xFF, 0xFF, 0xFF, 0xFF])] s0

theorem witness_ReportKeyAlwaysSucceeds :
    v1.Accepted ∧ (v1.setMem v2.mem).Accepted ∧ v1.mem.wf = true ∧ Memory.wf v2.mem = true ∧
    v1.request.keyName = KeyName.code .report ∧ (v1.setMem v2.mem).request.keyName = KeyName.code .report ∧
    (v1.setMem v2.mem).request.keyId = v1.request.keyId :=
  ⟨of_accepted (by decide +kernel), of_accepted (by decide +kernel), by decide +kernel⟩

/-- V41, V27, V11: the attribute with another signer, no attribute, the attribute with the launch signer. -/
theorem witness_EinittokenKeyChecks :
    (∀ s ∈ [b0 svns (secsWith 0xA5 0x3513), b0 svns s0, v11], s.Accepted ∧
      s.request.keyName = KeyName.code .einittoken) ∧
    ((b0 svns (secsWith 0xA5 0x3513)).currentSecs.attributes.getLsbD 5 = true ∧
      (b0 svns (secsWith 0xA5 0x3513)).currentSecs.mrSigner ≠ (b0 svns (secsWith 0xA5 0x3513)).ia32SgxLePubKeyHash) ∧
    (b0 svns s0).currentSecs.attributes.getLsbD 5 = false ∧
    v11.currentSecs.mrSigner = v11.ia32SgxLePubKeyHash := by
  have h : ∀ s ∈ [b0 svns (secsWith 0xA5 0x3513), b0 svns s0, v11], accepted s = true ∧
      s.request.keyName = KeyName.code .einittoken := by decide +kernel
  exact ⟨fun s hs => ⟨of_accepted (h s hs).1, (h s hs).2⟩, by decide +kernel⟩

theorem witness_ProvisionKeysChecks :
    ∀ p ∈ [(v8, KeyName.provision), (v9, KeyName.provisionSeal)],
      (p.2 = .provision ∨ p.2 = .provisionSeal) ∧ p.1.Accepted ∧ p.1.request.keyName = p.2.code := by
  have h : ∀ p ∈ [(v8, KeyName.provision), (v9, KeyName.provisionSeal)],
      (p.2 = .provision ∨ p.2 = .provisionSeal) ∧ accepted p.1 = true ∧ p.1.request.keyName = p.2.code := by
    decide +kernel
  exact fun p hp => ⟨(h p hp).1, of_accepted (h p hp).2.1, (h p hp).2.2⟩

/-! ### Witnesses: frame, safety, whole machine -/

/-- A completion with a key (ZF clear) and one with an error code (ZF set). -/
theorem witness_CompletionFrame :
    (v4.mem.wf = true ∧ ∃ t, exec .egetkey v4 = .next t ∧ (t.flag .zf == false) = true) ∧
    (v20.mem.wf = true ∧ ∃ t, exec .egetkey v20 = .next t ∧ t.flag .zf = true) :=
  ⟨⟨by decide +kernel, exists_of_completes (p := fun t => t.flag .zf == false) (by decide +kernel)⟩,
    ⟨by decide +kernel, exists_of_completes (p := fun t => t.flag .zf) (by decide +kernel)⟩⟩

theorem witness_CompletionFlags : ∃ t, exec .egetkey v20 = .next t :=
  let ⟨t, h, _⟩ := exists_of_completes (s := v20) (p := fun _ => true) (by decide +kernel); ⟨t, h⟩

/-- A success of every key name: the hypotheses of AccessControl and NoKeyBeyondCurrentSvn, clause by clause. -/
theorem successes_complete : ∀ p ∈ successes, completes p.1 (fun t => t.flag .zf == false) = true := by decide +kernel

theorem witness_AccessControl : ∀ p ∈ successes, p.1.request.keyName = p.2.code ∧
    ∃ t, exec .egetkey p.1 = .next t ∧ t.flag .zf = false := by
  intro p hp
  obtain ⟨t, ht, hz⟩ := exists_of_completes (successes_complete p hp)
  exact ⟨(successes_meet p hp).2.2.1, t, ht, by simpa using hz⟩

/-- With V9 where PROVISION_SEAL_KEY tests CONFIGSVN. -/
theorem witness_NoKeyBeyondCurrentSvn : (∀ p ∈ successes, p.1.request.keyName = p.2.code ∧
      ∃ t, exec .egetkey p.1 = .next t ∧ t.flag .zf = false) ∧
    (let s := withCfg v9 { v9.cfg with provsealChecksConfigsvn := true }
     s.request.keyName = KeyName.code .provisionSeal ∧ s.cfg.provsealChecksConfigsvn = true ∧
     ∃ t, exec .egetkey s = .next t ∧ (t.flag .zf == false) = true) :=
  ⟨witness_AccessControl, by decide +kernel, rfl,
    exists_of_completes (p := fun t => t.flag .zf == false) (by decide +kernel)⟩

theorem witness_OperandAddressesByMode :
    0 < 512 ∧ v1.cfg.mode = .mode64 ∧ (withCfg v1 { v1.cfg with mode := .prot32 }).cfg.mode = .prot32 :=
  ⟨by decide, rfl, rfl⟩

/-- V16: RCX = RBX. -/
theorem witness_OverlappingOperands :
    (rcxTo 0x10001000).mem.wf = true ∧ (rcxTo 0x10001000).rcx = (rcxTo 0x10001000).rbx ∧
    ∃ t, exec .egetkey (rcxTo 0x10001000) = .next t ∧ (t.flag .zf == false) = true :=
  ⟨by decide +kernel, rfl, exists_of_completes (p := fun t => t.flag .zf == false) (by decide +kernel)⟩

/-- The same state with another OUTPUTDATA address: same inputs, another place. -/
def elsewhere (s : State) : State := { s with rcx := 0x10006000, rflags := 0, draws := 7 }

theorem elsewhere_complete : ∀ p ∈ successes, (elsewhere p.1).mem.wf = true ∧
    completes (elsewhere p.1) (fun t => t.flag .zf == false) = true ∧
    (elsewhere p.1).request.keyName = p.2.code := by decide +kernel

theorem sameKeyInputs_elsewhere (s : State) (k : KeyName) : SameKeyInputs s (elsewhere s) k := by
  have h1 : (elsewhere s).request = s.request := rfl
  have h2 : (elsewhere s).currentSecs = s.currentSecs := rfl
  cases k <;> simp only [SameKeyInputs, h1, h2] <;> simp [elsewhere]

theorem witness_KeyDependsOnlyOnListedInputs : ∀ p ∈ successes, p.1.mem.wf = true ∧ (elsewhere p.1).mem.wf = true ∧
    (∃ t, exec .egetkey p.1 = .next t ∧ t.flag .zf = false) ∧
    (∃ t, exec .egetkey (elsewhere p.1) = .next t ∧ t.flag .zf = false) ∧
    p.1.request.keyName = p.2.code ∧ (elsewhere p.1).request.keyName = p.2.code ∧
    SameKeyInputs p.1 (elsewhere p.1) p.2 := by
  intro p hp
  obtain ⟨h1, h2, h3⟩ := elsewhere_complete p hp
  obtain ⟨t, ht, hz⟩ := exists_of_completes h2
  exact ⟨(successes_meet p hp).2.1, h1, (witness_AccessControl p hp).2, ⟨t, ht, by simpa using hz⟩,
    (successes_meet p hp).2.2.1, h3, sameKeyInputs_elsewhere _ _⟩

theorem step_of_completes {s t : State} (h1 : s.pcInText = true) (h2 : decode s.fetchBytes = .ok (.egetkey, []))
    (h3 : s.text.overlaps s.laOut.toNat outputSize = false) (ht : exec .egetkey s = .next t) : step s = .next t := by
  simp [step, h1, h2, ht, State.guardText, h3]

/-- The step completes on V1 (program P1). -/
theorem step_v1_completes : ∃ t, step v1 = .next t :=
  let ⟨t, ht, _⟩ := exists_of_completes (s := v1) (p := fun _ => true) (by decide +kernel)
  ⟨t, step_of_completes (by decide +kernel) (by decide +kernel) (by decide +kernel) ht⟩

theorem witness_StepKeepsInv : v1.Inv ∧ ∃ t, step v1 = .next t :=
  ⟨⟨by decide +kernel, by decide +kernel, show canonical v1.pc = true by decide +kernel⟩, step_v1_completes⟩

theorem witness_StepKeepsEnvironmentAndText : v1.mem.wf = true ∧ ∃ t, step v1 = .next t :=
  ⟨witness_StepKeepsInv.1.memWf, step_v1_completes⟩

/-- V1, and the launch enclave of V11, under every launch premise of R222. -/
theorem witness_LaunchedStepCompletes : ∀ s ∈ [v1, v11], s.InEnclave ∧ s.LeafSelected ∧ s.SecsPresent ∧ s.ElrangeSane ∧
    s.TextDisjoint ∧ s.LaunchSigner ∧ s.OperandsOk ∧ s.FormatOk ∧ s.PcOk ∧
    s.text.start ≤ s.pc.toNat ∧ s.pc.toNat + 3 ≤ s.text.stop ∧ s.mem.read s.pc.toNat = 0x0F ∧
    s.mem.read (s.pc.toNat + 1) = 0x01 ∧ s.mem.read (s.pc.toNat + 2) = 0xD7 := by
  have h : ∀ s ∈ [v1, v11], accepted s = true ∧ s.secs.any (fun p => p.1 == s.crActiveSecs) = true ∧
      s.crElrange.base.toNat + s.crElrange.size.toNat < 2 ^ 64 ∧ s.laOut.toNat + 16 ≤ s.text.start ∧
      (s.currentSecs.einittokenKey = true → s.currentSecs.mrSigner = s.ia32SgxLePubKeyHash) ∧
      s.text.start ≤ s.pc.toNat ∧ s.pc.toNat + 3 ≤ s.text.stop ∧ s.mem.read s.pc.toNat = 0x0F ∧
      s.mem.read (s.pc.toNat + 1) = 0x01 ∧ s.mem.read (s.pc.toNat + 2) = 0xD7 := by decide +kernel
  intro s hs
  obtain ⟨ha, hp, he, hd, hl, ht⟩ := h s hs
  have ok := of_accepted ha
  obtain ⟨p, hm, hid⟩ := List.any_eq_true.mp hp
  exact ⟨ok.inEnclave, ok.leaf, ⟨p, hm, by simpa using hid⟩, he, fun a h1 _ => .inr (by omega), hl, ok.operands,
    ok.format, ok.pcOk, ht⟩

end Sys2Proof.Tests
end

section

/-! ### TMP_ATTRIBUTES bit by bit (R44) -/

namespace Sys2Proof.Machine

/-- R44: the mask has exactly bits 0 and 1; it is `2 ^ 2 - 1`. -/
@[simp] theorem getLsbD_requiredSealingMask (i : Nat) : requiredSealingMask.getLsbD i = decide (i < 2) :=
  Nat.testBit_two_pow_sub_one 2 i

/-- R44: which bits of SECS.ATTRIBUTES pass. -/
theorem getLsbD_tmpAttributes (r : KeyRequest) (c : SecsRecord) (i : Nat) :
    (tmpAttributes r c).getLsbD i = ((r.attributeMask.getLsbD i || decide (i < 2)) && c.attributes.getLsbD i) := by
  simp [tmpAttributes]

/-- A bit of the sealing mask passes whatever the request's mask. -/
theorem getLsbD_tmpAttributes_of_lt (r : KeyRequest) (c : SecsRecord) {i : Nat} (h : i < 2) :
    (tmpAttributes r c).getLsbD i = c.attributes.getLsbD i := by
  simp [getLsbD_tmpAttributes, h]

/-- A bit outside the sealing mask passes where the request's mask has it. -/
theorem getLsbD_tmpAttributes_of_le (r : KeyRequest) (c : SecsRecord) {i : Nat} (h : 2 ≤ i) :
    (tmpAttributes r c).getLsbD i = (r.attributeMask.getLsbD i && c.attributes.getLsbD i) := by
  simp [getLsbD_tmpAttributes, Nat.not_lt.mpr h]

/-- Settles O35: the two values are the model's definitions; the bits follow from which bits the sealing mask has. -/
theorem sealingMaskKeepsInitAndDebug : Obligations.SealingMaskKeepsInitAndDebug := by
  intro r c
  exact ⟨rfl, rfl, getLsbD_tmpAttributes_of_lt r c Nat.zero_lt_two, getLsbD_tmpAttributes_of_lt r c Nat.one_lt_two,
    fun _ h => getLsbD_tmpAttributes_of_le r c h⟩

end Sys2Proof.Machine
end

section

/-! ### The fault tests of EGETKEY (R112 to R121, R196) -/

namespace Sys2Proof.Machine

/-- How the address tests of R112 and R116 fail. -/
theorem State.not_addressOk_iff (s : State) (r : Word) (align n : Nat) :
    ¬ s.AddressOk r align n ↔
      s.addressValid r n = false ∨ (s.linearAddress r).toNat % align ≠ 0 ∨
      (s.linearAddress r).toNat < s.crElrange.base.toNat ∨
      s.crElrange.base.toNat + s.crElrange.size.toNat < (s.linearAddress r).toNat + n := by
  have conj : s.AddressOk r align n ↔ s.addressValid r n = true ∧ (s.linearAddress r).toNat % align = 0 ∧
      s.crElrange.base.toNat ≤ (s.linearAddress r).toNat ∧
      (s.linearAddress r).toNat + n ≤ s.crElrange.base.toNat + s.crElrange.size.toNat :=
    ⟨fun h => ⟨h.valid, h.aligned, h.low, h.high⟩, fun ⟨h1, h2, h3, h4⟩ => ⟨h1, h2, h3, h4⟩⟩
  simp only [conj, not_and_or, Bool.not_eq_true, not_le, ne_eq]

/-- How the EPCM tests of R113 to R115 or R117 to R119 fail. -/
theorem State.not_entryOk_iff (s : State) (la : Word) (acc : Access) (e : EpcmEntry) :
    ¬ s.EntryOk la acc e ↔
      e.valid = false ∨ e.blocked = true ∨ e.pt ≠ .ptReg ∨ e.enclaveSecs ≠ s.crActiveSecs ∨ e.pending = true ∨
      e.modified = true ∨ e.enclaveAddress.toNat ≠ la.toNat - la.toNat % 4096 ∨ e.permits acc = false := by
  have conj : s.EntryOk la acc e ↔ e.valid = true ∧ e.blocked = false ∧ e.pt = .ptReg ∧
      e.enclaveSecs = s.crActiveSecs ∧ e.pending = false ∧ e.modified = false ∧
      e.enclaveAddress.toNat = la.toNat - la.toNat % 4096 ∧ e.permits acc = true := by
    have hperm : e.permits acc = true ↔ (match acc with | .read => e.r = true | .write => e.w = true) := by
      cases acc <;> rfl
    rw [hperm]
    exact ⟨fun h => ⟨h.valid, h.unlocked, h.regular, h.owned, h.settled, h.intact, h.mapped, h.allowed⟩,
      fun ⟨h1, h2, h3, h4, h5, h6, h7, h8⟩ => ⟨h1, h2, h3, h4, h5, h6, h7, h8⟩⟩
  simp only [conj, not_and_or, Bool.not_eq_true, Bool.not_eq_false, ne_eq]

/-- How a page fails: no translation, no EPC page, or an EPCM entry that is not accepted. -/
theorem State.not_pageOk_iff (s : State) (la : Word) (acc : Access) :
    ¬ s.PageOk la acc ↔
      s.translate la acc = none ∨
      (∃ pa, s.translate la acc = some pa ∧ s.epcmOf pa = none) ∨
      (∃ pa e, s.translate la acc = some pa ∧ s.epcmOf pa = some e ∧
        (e.valid = false ∨ e.blocked = true ∨ e.pt ≠ .ptReg ∨ e.enclaveSecs ≠ s.crActiveSecs ∨ e.pending = true ∨
          e.modified = true ∨ e.enclaveAddress.toNat ≠ la.toNat - la.toNat % 4096 ∨ e.permits acc = false)) := by
  simp only [← s.not_entryOk_iff, State.PageOk]
  cases ht : s.translate la acc with
  | none => simp
  | some pa => cases he : s.epcmOf pa <;> simp [he]

open scoped Classical in
/-- The fault EGETKEY reports, by the conditions of Safety, in the order of R196. -/
theorem State.firstFault_egetkeyFaults (s : State) : firstFault s.egetkeyFaults =
    if ¬ s.AddressOk s.rbx 512 512 then some .gp0
    else if ¬ s.PageOk s.laReq .read then some (s.pageFaultAt s.laReq)
    else if ¬ s.AddressOk s.rcx 16 16 then some .gp0
    else if ¬ s.PageOk s.laOut .write then some (s.pageFaultAt s.laOut)
    else if ¬ s.FormatOk then some .gp0
    else none := by
  -- Both format tests raise the same fault, so only their conjunction is left in the statement.
  simp only [State.egetkeyFaults, firstFault, keyrequestAlign, keyrequestSize, outputAlign, outputSize,
    ← s.addressAccepted_iff, ← s.pageAccepted_iff, ← s.formatOk_iff, Bool.not_eq_true, Bool.not_eq_true']
  cases s.request.reservedClear <;> cases kssViolated s.request s.currentSecs <;> simp

section
variable {s : State} (hin : s.InEnclave) (hleaf : s.LeafSelected)
include hin hleaf

/-- The first test: the KEYREQUEST address (R112). -/
theorem execEgetkey_of_not_reqAddress (h : ¬ s.AddressOk s.rbx 512 512) : execEgetkey s = .fault .gp0 :=
  execEgetkey_fault hin hleaf (by simp [s.firstFault_egetkeyFaults, h])

/-- The second test: the KEYREQUEST page (R113 to R115). -/
theorem execEgetkey_of_not_reqPage (hra : s.AddressOk s.rbx 512 512) (h : ¬ s.PageOk s.laReq .read) :
    execEgetkey s = .fault (s.pageFaultAt s.laReq) :=
  execEgetkey_fault hin hleaf (by simp [s.firstFault_egetkeyFaults, hra, h])

/-- The third test: the OUTPUTDATA address (R116). -/
theorem execEgetkey_of_not_outAddress (hra : s.AddressOk s.rbx 512 512) (hrp : s.PageOk s.laReq .read)
    (h : ¬ s.AddressOk s.rcx 16 16) : execEgetkey s = .fault .gp0 :=
  execEgetkey_fault hin hleaf (by simp [s.firstFault_egetkeyFaults, hra, hrp, h])

/-- The fourth test: the OUTPUTDATA page (R117 to R119). -/
theorem execEgetkey_of_not_outPage (hra : s.AddressOk s.rbx 512 512) (hrp : s.PageOk s.laReq .read)
    (hoa : s.AddressOk s.rcx 16 16) (h : ¬ s.PageOk s.laOut .write) :
    execEgetkey s = .fault (s.pageFaultAt s.laOut) :=
  execEgetkey_fault hin hleaf (by simp [s.firstFault_egetkeyFaults, hra, hrp, hoa, h])

/-- The last tests: the format of KEYREQUEST (R120, R121). -/
theorem execEgetkey_of_not_formatOk (hop : s.OperandsOk) (h : ¬ s.FormatOk) : execEgetkey s = .fault .gp0 :=
  execEgetkey_fault hin hleaf (by
    simp [s.firstFault_egetkeyFaults, hop.reqAddress, hop.reqPage, hop.outAddress, hop.outPage, h])

end

/-- With both operands accepted the only fault left is #GP(0) (R120, R121). -/
theorem eq_gp0_of_execEgetkey_fault {s : State} {f : Fault} (hop : s.OperandsOk) (h : execEgetkey s = .fault f) :
    f = .gp0 := by
  have hf := firstFault_of_execEgetkey h
  simp only [s.firstFault_egetkeyFaults, hop.reqAddress, hop.reqPage, hop.outAddress, hop.outPage, not_true_eq_false,
    if_false] at hf
  split_ifs at hf
  exact (Option.some.inj hf).symm

/-- Settles O12: the address test of KEYREQUEST is the first of the list. -/
theorem keyrequestAddressFault : Obligations.KeyrequestAddressFault := fun s hin hleaf h =>
  execEgetkey_of_not_reqAddress hin hleaf ((s.not_addressOk_iff _ _ _).mpr h)

/-- Settles O13: the page test of KEYREQUEST is the second of the list. -/
theorem keyrequestPageFault : Obligations.KeyrequestPageFault := fun s hin hleaf hra h =>
  ⟨_, execEgetkey_of_not_reqPage hin hleaf hra ((s.not_pageOk_iff _ .read).mpr h)⟩

/-- Settles O14: the address test of OUTPUTDATA is the third of the list. -/
theorem outputAddressFault : Obligations.OutputAddressFault := fun s hin hleaf hra hrp h =>
  execEgetkey_of_not_outAddress hin hleaf hra hrp ((s.not_addressOk_iff _ _ _).mpr h)

/-- Settles O15: the page test of OUTPUTDATA is the fourth of the list, and the tests after it raise #GP(0) alone. -/
theorem outputPageFault : Obligations.OutputPageFault := by
  intro s hin hleaf hra hrp hoa
  refine Iff.trans ⟨?_, fun h => ⟨_, execEgetkey_of_not_outPage hin hleaf hra hrp hoa h⟩⟩ (s.not_pageOk_iff _ .write)
  rintro ⟨code, hf⟩ hop
  exact nomatch eq_gp0_of_execEgetkey_fault ⟨hra, hrp, hoa, hop⟩ hf

end Sys2Proof.Machine
end

section

/-! ### The reserved space of KEYREQUEST (R120) -/

namespace Sys2Proof.Machine

/-- Bit `i` of a field is bit `i mod 8` of the field's byte `i div 8` (R38). -/
theorem Memory.getLsbD_field (m : Memory) (la off : Nat) {n w i : Nat} (hn : i < 8 * n) (hw : i < w) :
    (m.field la off n w).getLsbD i = (m.read (la + off + i / 8)).getLsbD (i % 8) := by
  rw [Memory.field, BitVec.getLsbD_ofNat, decide_eq_true hw, Bool.true_and, Memory.testBit_readLE n m _ i hn]

/-- Every byte of a zero field is zero. -/
theorem Memory.read_eq_zero_of_field {m : Memory} {la off n w k : Nat} (hw : w = 8 * n) (h : m.field la off n w = 0)
    (hlo : off ≤ k) (hhi : k < off + n) : m.read (la + k) = 0 := by
  apply BitVec.eq_of_getLsbD_eq
  intro j hj
  have hbit := m.getLsbD_field la off (n := n) (w := w) (i := 8 * (k - off) + j) (by omega) (by omega)
  rw [h, show la + off + (8 * (k - off) + j) / 8 = la + k by omega, show (8 * (k - off) + j) % 8 = j by omega] at hbit
  simpa using hbit.symm

/-- An accepted format has only zero bytes in both reserved regions. -/
theorem State.FormatOk.read_reserved {s : State} (h : s.FormatOk) {k : Nat} (hk : 6 ≤ k ∧ k ≤ 7 ∨ 78 ≤ k ∧ k ≤ 511) :
    s.mem.read (s.laReq.toNat + k) = 0 := by
  rcases hk with ⟨hlo, hhi⟩ | ⟨hlo, hhi⟩
  · exact Memory.read_eq_zero_of_field (n := 2) rfl h.reserved1 hlo (by omega)
  · exact Memory.read_eq_zero_of_field (n := 434) (w := 3472) (m := s.mem) rfl h.reserved2 hlo (by omega)

/-- Settles O16: each clause contradicts an accepted format. -/
theorem reservedSpaceFault : Obligations.ReservedSpaceFault := by
  intro s hin hleaf hop h
  refine execEgetkey_of_not_formatOk hin hleaf hop fun hfmt => ?_
  rcases h with ⟨k, hk, hne⟩ | ⟨i, hlo, -, hset⟩
  · exact hne (hfmt.read_reserved hk)
  · exact absurd ((hfmt.policy i hlo).symm.trans hset) Bool.false_ne_true

end Sys2Proof.Machine
end

section

/-! ### What an accepted request returns (R129 to R131) -/

namespace Sys2Proof.Machine

section
variable {s t : State} {e : ErrorCode} {es : List ErrorCode} {k : KeyName}

/-- Of the six flags an error code leaves ZF alone set (R129). -/
theorem ErrorCompletion.flag_iff (h : ErrorCompletion s t e es) (f : Flag) : t.flag f = true ↔ f = .zf := by
  rw [State.flag, h.rflags]
  by_cases hf : f = .zf
  · simp [hf, completionFlags_zf]
  · simp [hf, completionFlags_cleared]

/-- A key leaves all six flags clear (R130). -/
theorem KeyCompletion.flag (h : KeyCompletion s t k) (f : Flag) : t.flag f = false := by
  rw [State.flag, h.rflags]
  by_cases hf : f = .zf
  · rw [hf, completionFlags_zf]
  · exact completionFlags_cleared _ _ _ hf

/-- RAX holds a member of the error set (R129). -/
theorem ErrorCompletion.exists_rax (h : ErrorCompletion s t e es) : ∃ c ∈ e :: es, t.rax = c.value :=
  ⟨_, drawError_mem es e _, h.rax⟩

/-- The 16 bytes at LA_OUT hold the key (R130, R71). -/
theorem KeyCompletion.getLsbD_read (h : KeyCompletion s t k) (hm : s.mem.wf = true) {i : Nat} (hi : i < 128) :
    (t.mem.read (s.laOut.toNat + i / 8)).getLsbD (i % 8) = (s.outputKey k).getLsbD i := by
  rw [← Memory.testBit_readLE outputSize _ _ i hi, h.mem, Memory.readLE_writeLE _ _ _ _ hm,
    Nat.mod_eq_of_lt (show _ < 256 ^ outputSize from (s.outputKey k).isLt), BitVec.testBit_toNat]

/-- Byte `i` at LA_OUT holds bits `8i+7:8i` of the key (R130, R71). -/
theorem KeyCompletion.read (h : KeyCompletion s t k) (hm : s.mem.wf = true) {i : Nat} (hi : i < 16) :
    t.mem.read (s.laOut.toNat + i) = BitVec.ofNat 8 ((s.outputKey k).toNat / 256 ^ i) := by
  rw [h.mem, Memory.read_writeLE outputSize _ _ _ _ hm hi]

end

section
variable {s : State} {k : KeyName} (ha : s.Accepted)
include ha

/-- R131: the DEFAULT arm. -/
theorem execEgetkey_of_invalid_keyName (hk : ∀ k : KeyName, s.request.keyName ≠ k.code) :
    ∃ t, execEgetkey s = .next t ∧ ErrorCompletion s t .invalidKeyName [] := by
  rw [execEgetkey_dispatch ha.inEnclave ha.leaf ha.operands ha.format, State.dispatchKeyName,
    (keyNameOf_eq_none _).mpr hk]
  exact ⟨_, State.returnError_eq_next.mpr ⟨ha.pcOk, rfl⟩, rfl⟩

variable (hk : s.request.keyName = k.code) (hl : k = .einittoken → s.LaunchSigner)
include hk hl

/-- R129: an arm whose error set is `e :: es`. -/
theorem execEgetkey_of_errSet_cons {e : ErrorCode} {es : List ErrorCode} (he : s.errSet k = e :: es) :
    ∃ t, execEgetkey s = .next t ∧ ErrorCompletion s t e es := by
  rw [execEgetkey_dispatch ha.inEnclave ha.leaf ha.operands ha.format, State.dispatchKeyName,
    (keyNameOf_eq_some _ k).mpr hk]
  simp only [(s.launchSignerUnknown_eq_false k).mpr hl, he]
  exact ⟨_, State.returnError_eq_next.mpr ⟨ha.pcOk, rfl⟩, rfl⟩

/-- R130: an arm whose error set is empty. -/
theorem execEgetkey_of_errSet_nil (he : s.errSet k = []) :
    ∃ t, execEgetkey s = .next t ∧ KeyCompletion s t k := by
  rw [execEgetkey_dispatch ha.inEnclave ha.leaf ha.operands ha.format, State.dispatchKeyName,
    (keyNameOf_eq_some _ k).mpr hk]
  simp only [(s.launchSignerUnknown_eq_false k).mpr hl, he]
  exact ⟨_, State.returnKey_eq_next.mpr ⟨ha.pcOk, rfl⟩, rfl⟩

end

/-- Settles O19: the empty error set selects the successful return, whose fields KeyCompletion gives. -/
theorem successfulReturn : Obligations.SuccessfulReturn := by
  intro s k ha hm hk he hl
  obtain ⟨t, ht, hc⟩ := execEgetkey_of_errSet_nil ha hk hl he
  exact ⟨t, ht, fun i hi => hc.getLsbD_read hm hi, hc.rax, hc.flag, hc.pc⟩

/-- Settles O20: a non-empty error set selects the error return, and the drawn code is one of its members. -/
theorem errorReturn : Obligations.ErrorReturn := by
  intro s k ha hk hne hl
  obtain ⟨e, es, he⟩ := List.exists_cons_of_ne_nil hne
  obtain ⟨t, ht, hc⟩ := execEgetkey_of_errSet_cons ha hk hl he
  obtain ⟨c, hmem, hrax⟩ := hc.exists_rax
  exact ⟨t, c, ht, he ▸ hmem, hrax, hc.flag_iff, hc.mem, hc.pc⟩

/-- Settles O21: the DEFAULT arm draws from the one code SGX_INVALID_KEYNAME. -/
theorem invalidKeyName : Obligations.InvalidKeyName := by
  intro s ha hk
  obtain ⟨t, ht, hc⟩ := execEgetkey_of_invalid_keyName ha hk
  exact ⟨t, ht, hc.rax, hc.flag_iff, hc.mem, hc.pc⟩

end Sys2Proof.Machine
end

section

/-! ### The arms of SEAL_KEY and REPORT_KEY (R125, R126) -/

namespace Sys2Proof.Machine

theorem beyondIsv_iff (r : KeyRequest) (c : SecsRecord) : beyondIsv r c = true ↔ c.isvSvn.toNat < r.isvSvn.toNat := by
  simp [beyondIsv, BitVec.lt_def]

theorem beyondCfg_iff (r : KeyRequest) (c : SecsRecord) :
    beyondCfg r c = true ↔ c.configSvn.toNat < r.configSvn.toNat := by
  simp [beyondCfg, BitVec.lt_def]

/-- R125: the error set of SEAL_KEY. -/
theorem State.mem_errSet_seal (s : State) (e : ErrorCode) : e ∈ s.errSet .seal ↔
    (e = .invalidCpuSvn ∧ s.beyondCpu s.request = true) ∨
    (e = .invalidIsvSvn ∧ (s.currentSecs.isvSvn.toNat < s.request.isvSvn.toNat ∨
      s.currentSecs.configSvn.toNat < s.request.configSvn.toNat)) := by
  simp only [State.errSet, List.mem_append, mem_failing, Bool.or_eq_true, beyondIsv_iff, beyondCfg_iff]

/-- An accepted request that R127 does not refuse completes, with ZF set exactly when its error set is not empty, RAX
then holding a member of it. -/
theorem execEgetkey_zf_iff {s : State} {k : KeyName} (ha : s.Accepted) (hk : s.request.keyName = k.code)
    (hl : k = .einittoken → s.LaunchSigner) :
    ∃ t, execEgetkey s = .next t ∧ (t.flag .zf = true ↔ s.errSet k ≠ []) ∧
      (t.flag .zf = true → ∃ e ∈ s.errSet k, t.rax = e.value) := by
  cases he : s.errSet k with
  | nil =>
    obtain ⟨t, ht, hc⟩ := execEgetkey_of_errSet_nil ha hk hl he
    exact ⟨t, ht, by simp [hc.flag], by simp [hc.flag]⟩
  | cons e es =>
    obtain ⟨t, ht, hc⟩ := execEgetkey_of_errSet_cons ha hk hl he
    exact ⟨t, ht, by simp [hc.flag_iff], fun _ => hc.exists_rax⟩

/-- Settles O27: the set is `mem_errSet_seal`, and which return ZF tells apart holds of every arm. -/
theorem sealKeyChecks : Obligations.SealKeyChecks := fun s =>
  ⟨s.mem_errSet_seal, fun ha hk => execEgetkey_zf_iff ha hk nofun⟩

/-- R157: of memory the report key sees the request's KEYID alone. -/
theorem State.outputKey_report_setMem {s : State} {m : Memory} (h : (s.setMem m).request.keyId = s.request.keyId) :
    (s.setMem m).outputKey .report = s.outputKey .report := by
  simp [State.outputKey, State.dependencies, State.reportDependencies, h]

/-- Settles O28: the error set is empty by definition, and both runs store the bytes of one key. -/
theorem reportKeyAlwaysSucceeds : Obligations.ReportKeyAlwaysSucceeds := by
  refine ⟨fun _ => rfl, ?_⟩
  intro s m has ham hs hm hks hkm hid
  obtain ⟨t, ht, hct⟩ := execEgetkey_of_errSet_nil (k := .report) has hks nofun rfl
  obtain ⟨u, hu, hcu⟩ := execEgetkey_of_errSet_nil (k := .report) ham hkm nofun rfl
  refine ⟨t, u, ht, hu, hct.rax, hct.flag _, hcu.rax, hcu.flag _, fun i hi => ?_⟩
  have hread := hcu.read hm hi
  rw [State.setMem_laOut, State.outputKey_report_setMem hid] at hread
  rw [hct.read hs hi, hread]

end Sys2Proof.Machine
end

section

/-! ### The derivation data of SEAL_KEY, REPORT_KEY and EINITTOKEN_KEY (R156 to R158) -/

namespace Sys2Proof.Machine

/-- The number read at LA_OUT is the key (R130, R71). -/
theorem KeyCompletion.ofNat_readLE {s t : State} {k : KeyName} (h : KeyCompletion s t k) (hm : s.mem.wf = true) :
    BitVec.ofNat 128 (t.mem.readLE s.laOut.toNat outputSize) = s.outputKey k := by
  rw [h.mem, Memory.readLE_writeLE _ _ _ _ hm, Nat.mod_eq_of_lt (show _ < 256 ^ outputSize from (s.outputKey k).isLt),
    BitVec.ofNat_toNat, BitVec.setWidth_eq]

/-- R130: an accepted request with no error stores the key of its arm's derivation data. -/
theorem execEgetkey_stores_key {s : State} {k : KeyName} (ha : s.Accepted) (hm : s.mem.wf = true)
    (hk : s.request.keyName = k.code) (hl : k = .einittoken → s.LaunchSigner) (he : s.errSet k = []) :
    ∃ t, execEgetkey s = .next t ∧ BitVec.ofNat 128 (t.mem.readLE s.laOut.toNat outputSize) =
      Config.derivekey s.cfg.procSecret (s.dependencies k) := by
  obtain ⟨t, ht, hc⟩ := execEgetkey_of_errSet_nil ha hk hl he
  exact ⟨t, ht, hc.ofNat_readLE hm⟩

theorem failing_eq_nil {check : Bool} {c : ErrorCode} : failing check c = [] ↔ check = false := by
  cases check <;> simp [failing]

theorem beyondIsv_eq_false (r : KeyRequest) (c : SecsRecord) :
    beyondIsv r c = false ↔ r.isvSvn.toNat ≤ c.isvSvn.toNat := by
  rw [← Bool.not_eq_true, beyondIsv_iff, not_lt]

theorem beyondCfg_eq_false (r : KeyRequest) (c : SecsRecord) :
    beyondCfg r c = false ↔ r.configSvn.toNat ≤ c.configSvn.toNat := by
  rw [← Bool.not_eq_true, beyondCfg_iff, not_lt]

/-- R125: when SEAL_KEY has no error. -/
theorem State.errSet_seal_eq_nil (s : State) : s.errSet .seal = [] ↔
    s.beyondCpu s.request = false ∧ s.request.isvSvn.toNat ≤ s.currentSecs.isvSvn.toNat ∧
    s.request.configSvn.toNat ≤ s.currentSecs.configSvn.toNat := by
  simp only [State.errSet, List.append_eq_nil_iff, failing_eq_nil, Bool.or_eq_false_iff, beyondIsv_eq_false,
    beyondCfg_eq_false]

/-- R127: when EINITTOKEN_KEY has no error. -/
theorem State.errSet_einittoken_eq_nil (s : State) : s.errSet .einittoken = [] ↔
    s.currentSecs.einittokenKey = true ∧ s.beyondCpu s.request = false ∧
    s.request.isvSvn.toNat ≤ s.currentSecs.isvSvn.toNat := by
  simp only [State.errSet, List.append_eq_nil_iff, failing_eq_nil, Bool.not_eq_false', beyondIsv_eq_false, and_assoc]

/-- Settles O22: the error set is empty, and the arm's record is R156's, its inverted ISVPRODID bit written out. -/
theorem sealKeyData : Obligations.SealKeyData := by
  intro s ha hm hk hcpu hisv hcfg
  have he := s.errSet_seal_eq_nil.mpr ⟨hcpu, hisv, hcfg⟩
  obtain ⟨t, ht, hkey⟩ := execEgetkey_stores_key ha hm hk nofun he
  simp only [State.dependencies, State.sealDependencies, included_not] at hkey
  exact ⟨t, ht, hkey⟩

/-- Settles O23: the error set is empty by definition, and the arm's record is R157's. -/
theorem reportKeyData : Obligations.ReportKeyData := fun _ ha hm hk =>
  execEgetkey_stores_key (k := .report) ha hm hk nofun rfl

/-- Settles O24: the signer rules out the refusal, the error set is empty, and the arm's record is R158's. -/
theorem einittokenKeyData : Obligations.EinittokenKeyData := by
  intro s ha hm hk hattr hsigner hcpu hisv
  have he := s.errSet_einittoken_eq_nil.mpr ⟨hattr, hcpu, hisv⟩
  exact execEgetkey_stores_key ha hm hk (fun _ _ => hsigner) he

end Sys2Proof.Machine
end

section

/-! ### Access control (R162) -/

namespace Sys2Proof.Machine

section
variable {s t : State}

/-- A completion with ZF clear returns the key of the name asked for, and the arm has no error (R130). -/
theorem execEgetkey_next_of_zf_clear (h : execEgetkey s = .next t) (hz : t.flag .zf = false) :
    ∃ k : KeyName, s.request.keyName = k.code ∧ (k = .einittoken → s.LaunchSigner) ∧ s.errSet k = [] ∧
      KeyCompletion s t k := by
  obtain ⟨-, ⟨-, hc⟩ | ⟨k, hk, hl, ⟨e, es, -, hc⟩ | ⟨he, hc⟩⟩⟩ := execEgetkey_next h
  · exact absurd ((hc.flag_iff .zf).mpr rfl) (by simp [hz])
  · exact absurd ((hc.flag_iff .zf).mpr rfl) (by simp [hz])
  · exact ⟨k, (keyNameOf_eq_some _ k).mp hk, (s.launchSignerUnknown_eq_false k).mp hl, he, hc⟩

/-- A completion reports in RAX only an error of the arm of the name asked for (R129). -/
theorem mem_errSet_of_rax {k : KeyName} {e : ErrorCode} (h : execEgetkey s = .next t)
    (hk : s.request.keyName = k.code) (hrax : t.rax = e.value) : e ∈ s.errSet k := by
  have hname := (keyNameOf_eq_some _ k).mpr hk
  obtain ⟨-, ⟨hnone, -⟩ | ⟨k', hk', -, ⟨e', es, he, hc⟩ | ⟨-, hc⟩⟩⟩ := execEgetkey_next h
  · exact absurd (hname.symm.trans hnone) nofun
  · obtain rfl : k' = k := Option.some.inj (hk'.symm.trans hname)
    obtain ⟨c, hmem, hc⟩ := hc.exists_rax
    rwa [he, ErrorCode.value_injective (hrax.symm.trans hc)]
  · exact absurd (hrax.symm.trans hc.rax) e.value_ne_zero

end

/-- Which requests have the attribute error (R125 to R128). -/
theorem State.invalidAttribute_mem_errSet (s : State) (k : KeyName) : .invalidAttribute ∈ s.errSet k ↔
    (k = .provision ∨ k = .provisionSeal) ∧ s.currentSecs.provisionKey = false ∨
    k = .einittoken ∧ s.currentSecs.einittokenKey = false := by
  cases k <;> simp [State.errSet, mem_failing]

/-- Settles O33: a success has no attribute error, and SEAL_KEY and REPORT_KEY have none to report. -/
theorem accessControl : Obligations.AccessControl := by
  intro s t h
  refine ⟨fun hz => ?_, fun hname hrax => ?_⟩
  · obtain ⟨k, hk, hl, he, -⟩ := execEgetkey_next_of_zf_clear h hz
    have hattr : ErrorCode.invalidAttribute ∉ s.errSet k := by simp [he]
    simp only [s.invalidAttribute_mem_errSet, not_or, not_and, Bool.not_eq_false] at hattr
    obtain ⟨hprovision, heinittoken⟩ := hattr
    refine ⟨fun hname => hprovision ?_, fun hname => ?_⟩
    · exact hname.imp (fun h => KeyName.code_injective (hk.symm.trans h))
        (fun h => KeyName.code_injective (hk.symm.trans h))
    · have hkey := KeyName.code_injective (hk.symm.trans hname)
      exact ⟨heinittoken hkey, hl hkey (heinittoken hkey)⟩
  · rcases hname with hk | hk <;>
      simpa [s.invalidAttribute_mem_errSet] using mem_errSet_of_rax h hk hrax

end Sys2Proof.Machine
end

section

/-! ### The padding constant (R163) -/

namespace Sys2Proof.Machine

/-- The highest of R163's three parts: after the zero byte that ends the run of ones, PKCS #1's DigestInfo prefix. -/
def paddingDigestInfo : BitVec 160 := 0x2004000501020403650148866009060D30313000

/-- The constant as the concatenation of R163's three parts, the highest first. -/
theorem hardcodedPadding_eq_append :
    hardcodedPadding = paddingDigestInfo ++ (BitVec.allOnes 2640 ++ 0x0100#16) := by
  decide +kernel

/-- Bytes 0 and 1 are those of the lowest part. -/
theorem hardcodedPadding_lowByte {k : Nat} (hk : k < 2) :
    hardcodedPadding.extractLsb' (8 * k) 8 = (0x0100#16).extractLsb' (8 * k) 8 := by
  rw [hardcodedPadding_eq_append, BitVec.extractLsb'_append_eq_of_add_le (by omega),
    BitVec.extractLsb'_append_eq_of_add_le (by omega)]

theorem extractLsb'_allOnes {w start len : Nat} (h : start + len ≤ w) :
    (BitVec.allOnes w).extractLsb' start len = BitVec.allOnes len := by
  apply BitVec.eq_of_getLsbD_eq
  intro i hi
  simp [hi, show start + i < w by omega]

/-- Bytes 2 to 331 are those of the middle part. -/
theorem hardcodedPadding_middleByte {k : Nat} (hk : k < 330) :
    hardcodedPadding.extractLsb' (8 * (2 + k)) 8 = BitVec.allOnes 8 := by
  rw [hardcodedPadding_eq_append, BitVec.extractLsb'_append_eq_of_add_le (by omega),
    BitVec.extractLsb'_append_eq_of_le (by omega), extractLsb'_allOnes (by omega)]

/-- Bytes 332 to 351 are those of the highest part. -/
theorem hardcodedPadding_highByte (k : Nat) :
    hardcodedPadding.extractLsb' (8 * (332 + k)) 8 = paddingDigestInfo.extractLsb' (8 * k) 8 := by
  rw [hardcodedPadding_eq_append, BitVec.extractLsb'_append_eq_of_le (by omega),
    show 8 * (332 + k) - (2640 + 16) = 8 * k by omega]

/-- The 352 bytes, part by part (R163). -/
theorem hardcodedPadding_bytes : (List.range (2 + 330 + 20)).map (fun k => hardcodedPadding.extractLsb' (8 * k) 8) =
    (List.range 2).map (fun k => (0x0100#16).extractLsb' (8 * k) 8) ++ List.replicate 330 (BitVec.allOnes 8) ++
    (List.range 20).map (fun k => paddingDigestInfo.extractLsb' (8 * k) 8) := by
  have hlow := List.map_congr_left fun k hk => hardcodedPadding_lowByte (List.mem_range.mp hk)
  have hmiddle : (List.range 330).map (fun k => hardcodedPadding.extractLsb' (8 * (2 + k)) 8) =
      List.replicate 330 (BitVec.allOnes 8) :=
    List.eq_replicate_iff.mpr ⟨by simp, by simpa using fun k => hardcodedPadding_middleByte⟩
  have hhigh := List.map_congr_left (l := List.range 20) fun k _ => hardcodedPadding_highByte k
  rw [List.range_add, List.range_add, List.map_append, List.map_append, List.map_map, List.map_map]
  exact congrArg₂ (· ++ ·) (congrArg₂ (· ++ ·) hlow hmiddle) hhigh

/-- Settles O36: the parts are those of the concatenation, and only the bytes of its two short parts are computed. -/
theorem paddingConstant : Obligations.PaddingConstant := by
  refine ⟨?_, ?_, ?_, hardcodedPadding_bytes.trans rfl⟩ <;> rw [hardcodedPadding_eq_append]
  · rw [BitVec.extractLsb'_append_eq_of_add_le (by decide), BitVec.extractLsb'_append_eq_right]
  · rw [BitVec.extractLsb'_append_eq_of_add_le (by decide), BitVec.extractLsb'_append_eq_left]
  · exact BitVec.extractLsb'_append_eq_left

end Sys2Proof.Machine
end

section

/-! ### What every completion leaves (R22, R23, R45, R48) -/

namespace Sys2Proof.Machine

section
variable {s t : State} (h : execEgetkey s = .next t)
include h

/-- A completion returns an error code or a key (R129 to R131). -/
theorem execEgetkey_completion : (∃ e es, ErrorCompletion s t e es) ∨ ∃ k, KeyCompletion s t k := by
  obtain ⟨-, ⟨-, hc⟩ | ⟨k, -, -, ⟨e, es, -, hc⟩ | ⟨-, hc⟩⟩⟩ := execEgetkey_next h
  · exact .inl ⟨_, _, hc⟩
  · exact .inl ⟨e, es, hc⟩
  · exact .inr ⟨k, hc⟩

theorem execEgetkey_pc : t.pc = s.pc + 3 := by
  obtain ⟨e, es, hc⟩ | ⟨k, hc⟩ := execEgetkey_completion h
  · exact hc.pc
  · exact hc.pc

theorem execEgetkey_sameEnvironment : SameEnvironment s t := by
  obtain ⟨e, es, hc⟩ | ⟨k, hc⟩ := execEgetkey_completion h
  · exact hc.sameEnvironment
  · exact hc.sameEnvironment

theorem execEgetkey_rflags : ∃ zf, t.rflags = completionFlags s.rflags zf := by
  obtain ⟨e, es, hc⟩ | ⟨k, hc⟩ := execEgetkey_completion h
  · exact ⟨true, hc.rflags⟩
  · exact ⟨false, hc.rflags⟩

/-- ZF tells the two completions apart in RAX (R45). -/
theorem execEgetkey_zf_rax : t.flag .zf = false ∧ t.rax = 0 ∨ t.flag .zf = true ∧ ∃ c : ErrorCode, t.rax = c.value := by
  obtain ⟨e, es, hc⟩ | ⟨k, hc⟩ := execEgetkey_completion h
  · exact .inr ⟨(hc.flag_iff .zf).mpr rfl, _, hc.rax⟩
  · exact .inl ⟨hc.flag .zf, hc.rax⟩

/-- ZF tells the two completions apart in memory: only a key is stored (R129, R130). -/
theorem execEgetkey_zf_mem : t.flag .zf = true ∧ t.mem = s.mem ∨
    t.flag .zf = false ∧ ∃ v, t.mem = s.mem.writeLE s.laOut.toNat outputSize v := by
  obtain ⟨e, es, hc⟩ | ⟨k, hc⟩ := execEgetkey_completion h
  · exact .inl ⟨(hc.flag_iff .zf).mpr rfl, hc.mem⟩
  · exact .inr ⟨hc.flag .zf, _, hc.mem⟩

theorem execEgetkey_mem_wf (hm : s.mem.wf = true) : t.mem.wf = true := by
  obtain ⟨-, he⟩ | ⟨-, v, he⟩ := execEgetkey_zf_mem h <;> rw [he]
  · exact hm
  · exact Memory.wf_writeLE _ _ _ _ hm

/-- No byte outside OUTPUTDATA changes (R71, R72). -/
theorem execEgetkey_read_outside (hm : s.mem.wf = true) {a : Nat} (ha : a < s.laOut.toNat ∨ s.laOut.toNat + 16 ≤ a) :
    t.mem.read a = s.mem.read a := by
  obtain ⟨-, he⟩ | ⟨-, v, he⟩ := execEgetkey_zf_mem h <;> rw [he]
  exact Memory.read_writeLE_outside _ _ _ _ _ hm ha

end

/-- Settles O31: an error code leaves memory as it is, a key changes the 16 bytes at LA_OUT, and RFLAGS is
`completionFlags` in both cases. -/
theorem completionFrame : Obligations.CompletionFrame := by
  intro s t hm h
  refine ⟨execEgetkey_sameEnvironment h, fun i h0 h2 h4 h6 h7 h11 => ?_, fun a => execEgetkey_read_outside h hm,
    fun hz a => ?_⟩
  · obtain ⟨z, hr⟩ := execEgetkey_rflags h
    rw [hr]
    exact completionFlags_other _ _ _ fun f => by cases f <;> assumption
  · obtain ⟨-, he⟩ | ⟨hz', -⟩ := execEgetkey_zf_mem h
    · rw [he]
    · exact absurd (hz.symm.trans hz') nofun

/-- Settles O32: five flags are clear in `completionFlags`, and RAX is 0 or an error code as ZF is. -/
theorem completionFlagsAndRax : Obligations.CompletionFlags := by
  intro s t h
  have clear (f : Flag) (hf : f ≠ .zf) : t.rflags.getLsbD f.pos = false := by
    obtain ⟨z, hr⟩ := execEgetkey_rflags h
    rw [hr, completionFlags_cleared _ _ _ hf]
  refine ⟨clear .cf nofun, clear .pf nofun, clear .af nofun, clear .of nofun, clear .sf nofun, ?_⟩
  refine (execEgetkey_zf_rax h).imp id (And.imp id ?_)
  rintro ⟨c, hc⟩
  cases c <;> simp [hc, ErrorCode.value]

end Sys2Proof.Machine
end

section

/-! ### What every step keeps (R22, R48, R75, R81) -/

namespace Sys2Proof.Machine

/-- R60, D33: in Prot32 the sum of DS.base and the low 32 bits of the register wraps at 2^32. -/
theorem State.toNat_linearAddress_of_prot32 {s : State} (hm : s.cfg.mode = .prot32) (r : Word) :
    (s.linearAddress r).toNat = (s.ds.base.toNat + r.toNat % 2 ^ 32) % 2 ^ 32 := by
  simp only [State.linearAddress, hm, BitVec.toNat_setWidth, BitVec.toNat_add]
  omega

/-- R75: a linear address lies in the mode's linear space. -/
theorem State.toNat_linearAddress_lt (s : State) (r : Word) : (s.linearAddress r).toNat < addressSpace s.cfg.mode := by
  cases hm : s.cfg.mode with
  | mode64 => exact (s.linearAddress r).isLt
  | prot32 => rw [s.toNat_linearAddress_of_prot32 hm]; exact Nat.mod_lt _ (Nat.two_pow_pos 32)

/-- An accepted OUTPUTDATA ends inside the linear space: the space's size is a multiple of its alignment. -/
theorem State.OperandsOk.laOut_add_le {s : State} (h : s.OperandsOk) :
    s.laOut.toNat + 16 ≤ addressSpace s.cfg.mode := by
  have haligned : s.laOut.toNat % 16 = 0 := h.outAddress.aligned
  have hlt : s.laOut.toNat < addressSpace s.cfg.mode := s.toNat_linearAddress_lt s.rcx
  cases hm : s.cfg.mode <;> simp only [hm, addressSpace] at hlt ⊢ <;> omega

/-- R22: the address past an instruction that may complete is an address of the mode. -/
theorem State.PcOk.pcInSpace {s t : State} (h : s.PcOk) (hcfg : t.cfg = s.cfg) (hpc : t.pc = s.pc + 3) :
    t.PcInSpace := by
  unfold State.PcOk at h
  unfold State.PcInSpace
  rw [hcfg, hpc]
  cases hm : s.cfg.mode <;> simp only [hm] at h ⊢
  · exact h.2
  · bv_omega

/-- Settles O42: a completion moves `pc` as `PcOk` allows and stores at most 16 aligned bytes of the linear space. -/
theorem stepKeepsInv : Obligations.StepKeepsInv := by
  intro s t hinv hstep
  obtain ⟨-, h, -⟩ := step_next hstep
  obtain ⟨hacc, -⟩ := execEgetkey_next h
  have hcfg := (execEgetkey_sameEnvironment h).cfg
  refine ⟨execEgetkey_mem_wf h hinv.memWf, fun c hc => ?_, hacc.pcOk.pcInSpace hcfg (execEgetkey_pc h)⟩
  rw [hcfg]
  obtain ⟨-, he⟩ | ⟨-, v, he⟩ := execEgetkey_zf_mem h <;> rw [he] at hc
  · exact hinv.memInSpace c hc
  · rcases Memory.mem_writeLE _ _ _ _ _ hc with ⟨-, hlt⟩ | hold
    · exact Nat.lt_of_lt_of_le hlt hacc.operands.laOut_add_le
    · exact hinv.memInSpace c hold

/-- Settles O44: a step that completes stores nothing in the text, for the overlap is refused. -/
theorem stepKeepsEnvironmentAndText : Obligations.StepKeepsEnvironmentAndText := by
  intro s t hm hstep
  obtain ⟨-, h, hover⟩ := step_next hstep
  refine ⟨execEgetkey_sameEnvironment h, execEgetkey_mem_wf h hm, fun a hlo hhi => ?_⟩
  rw [ProgramText.overlaps_iff, outputSize] at hover
  exact execEgetkey_read_outside h hm (by omega)

end Sys2Proof.Machine
end

section

/-! ### The decoder and the step around an instruction (R77, R81, R90, R99, R230) -/

namespace Sys2Proof

/-- R90: what the decoder accepts is what its unprefixed part accepts. -/
theorem decode_eq_ok {bs : List Byte} {p : Instr × List Byte} :
    decode bs = .ok p ↔ decodeUnprefixed bs = some p := by
  unfold decode
  cases decodeUnprefixed bs with
  | some q => simp
  | none => cases decodeUnprefixed (skipPrefixes bs) <;> simp

/-- Settles O2: the decoder accepts what `decodeUnprefixed` does, which is exactly the encodings. -/
theorem decodeReadsExactlyEncodings : Obligations.DecodeReadsExactlyEncodings := fun bs i rest =>
  Iff.trans decode_eq_ok (decodeUnprefixed_eq_some bs i rest)

theorem decode_encode (i : Instr) (rest : List Byte) : decode (encode i ++ rest) = .ok (i, rest) :=
  (decodeReadsExactlyEncodings _ i rest).mpr rfl

/-- R99: no encoding begins with a prefix byte. -/
theorem decodeUnprefixed_cons_of_isPrefixByte {p : Byte} (hp : isPrefixByte p = true) (bs : List Byte) :
    decodeUnprefixed (p :: bs) = none := by
  refine Option.eq_none_iff_forall_ne_some.mpr fun ⟨i, rest⟩ h => ?_
  cases i
  obtain ⟨rfl, -⟩ := List.cons_eq_cons.mp ((decodeUnprefixed_eq_some _ _ _).mp h)
  exact absurd hp (by decide)

theorem skipPrefixes_append {ps : List Byte} (hps : ∀ b ∈ ps, isPrefixByte b = true) (bs : List Byte) :
    skipPrefixes (ps ++ bs) = skipPrefixes bs := by
  induction ps with
  | nil => rfl
  | cons b ps ih =>
    obtain ⟨hb, hps⟩ := List.forall_mem_cons.mp hps
    rw [List.cons_append, skipPrefixes, if_pos hb, ih hps]

/-- R99: an encoding after one or more prefix bytes. -/
theorem decode_prefixed {p : Byte} {ps : List Byte} (h : ∀ b ∈ p :: ps, isPrefixByte b = true) (i : Instr)
    (rest : List Byte) : decode (p :: ps ++ encode i ++ rest) = .error .prefixed := by
  have hskip : skipPrefixes (p :: ps ++ (encode i ++ rest)) = encode i ++ rest := by
    rw [skipPrefixes_append h, skipPrefixes_encode]
  have hsome : decodeUnprefixed (encode i ++ rest) = some (i, rest) := (decodeUnprefixed_eq_some _ _ _).mpr rfl
  rw [List.append_assoc, decode, hskip, hsome, List.cons_append, decodeUnprefixed_cons_of_isPrefixByte (h p (by simp))]

/-- Settles O1: the decoder evaluated on the listed bytes. -/
theorem tableWordDecodes : Obligations.TableWordDecodes := by
  unfold Obligations.TableWordDecodes
  decide

end Sys2Proof

namespace Sys2Proof.Machine

theorem State.pcInText_iff (s : State) : s.pcInText = true ↔ s.text.start ≤ s.pc.toNat ∧ s.pc.toNat < s.text.stop := by
  simp [State.pcInText]

section
variable {s : State} (hpc : s.pcInText = true)
include hpc

theorem step_of_decode_ok {i : Instr} {rest : List Byte} (hd : decode s.fetchBytes = .ok (i, rest)) :
    step s = stepOutcome s (exec i s) := by
  rw [step, if_pos hpc, hd, ← s.guardText_eq]

theorem step_of_decode_error {e : DecodeError} (hd : decode s.fetchBytes = .error e) :
    step s = .refused (refusalOf e) := by
  rw [step, if_pos hpc, hd]

end

theorem step_of_not_pcInText {s : State} (hpc : ¬ s.pcInText = true) : step s = .refused s.outsideText := by
  rw [step, if_neg hpc]

/-- Settles O3: the fetched bytes are a prefixed form, and the step reports the decoder's reason. -/
theorem prefixedFormsRefused : Obligations.PrefixedFormsRefused := by
  intro s p ps rest hlo hhi hps hfetch
  exact step_of_decode_error (s.pcInText_iff.mpr ⟨hlo, hhi⟩) (hfetch ▸ decode_prefixed hps _ _)

/-- Settles O4: with `pc` in the text the text is not empty, so the overlap is the test of its two ends. -/
theorem stepRunsDecodedInstr : Obligations.StepRunsDecodedInstr := by
  intro s i rest hlo hhi hd
  have hne : s.text.start < s.text.stop := Nat.lt_of_le_of_lt hlo hhi
  rw [step_of_decode_ok (s.pcInText_iff.mpr ⟨hlo, hhi⟩) hd]
  cases exec i s <;> simp [stepOutcome, hne]

/-- Settles O7: `pc` is not in the text, and the refusal's name is decided by its two ends. -/
theorem stepOutsideTextRefused : Obligations.StepOutsideTextRefused := by
  intro s
  refine ⟨fun hlo hend => ?_, fun hout => ?_⟩
  · rw [step_of_not_pcInText (by rw [s.pcInText_iff]; omega), State.outsideText, if_pos (by simp [hend, hend ▸ hlo])]
  · rw [step_of_not_pcInText (by rw [s.pcInText_iff]; omega), State.outsideText, if_neg (by simp; omega)]

/-- The bytes `0F 01 D7` at `pc`, all in the text, are fetched as the encoding of EGETKEY with the bytes after it. -/
theorem State.decode_fetchBytes_enclu {s : State} (hhi : s.pc.toNat + 3 ≤ s.text.stop)
    (h0 : s.mem.read s.pc.toNat = 0x0F) (h1 : s.mem.read (s.pc.toNat + 1) = 0x01)
    (h2 : s.mem.read (s.pc.toNat + 2) = 0xD7) : ∃ rest, decode s.fetchBytes = .ok (.egetkey, rest) := by
  obtain ⟨n, hn⟩ := Nat.exists_eq_add_of_le' (show 3 ≤ s.text.stop - s.pc.toNat by omega)
  refine ⟨s.mem.readBytes (s.pc.toNat + 3) n, (decodeReadsExactlyEncodings _ _ _).mpr ?_⟩
  rw [State.fetchBytes, hn]
  simp [Memory.readBytes, h0, h1, h2, encode]

/-- Settles O5: the three bytes are in the text, so they are fetched and decoded. -/
theorem encluBytesAtPcRun : Obligations.EncluBytesAtPcRun := by
  intro s hlo hhi h0 h1 h2
  obtain ⟨rest, hd⟩ := s.decode_fetchBytes_enclu hhi h0 h1 h2
  exact step_of_decode_ok (s.pcInText_iff.mpr ⟨hlo, by omega⟩) hd

/-- The table's word is the encoding of EGETKEY, and selects it (R90, R91). -/
theorem State.withFetchWord_enclu (s : State) :
    s.withFetchWord 24 0x0F01D7 = (s.loadText (encode .egetkey)).selectLeaf (some .egetkey) := by
  have hbytes : tableBytes 24 0x0F01D7 = encode .egetkey := by decide
  have hword : decodeTableWord 24 0x0F01D7 = some .egetkey := by decide
  rw [State.withFetchWord, hbytes, hword]

@[simp] theorem State.selectLeaf_pc (s : State) (i : Option Instr) : (s.selectLeaf i).pc = s.pc := by cases i <;> rfl
@[simp] theorem State.selectLeaf_text (s : State) (i : Option Instr) : (s.selectLeaf i).text = s.text := by
  cases i <;> rfl
@[simp] theorem State.selectLeaf_mem (s : State) (i : Option Instr) : (s.selectLeaf i).mem = s.mem := by
  cases i <;> rfl
@[simp] theorem State.loadText_pc (s : State) (bs : List Byte) : (s.loadText bs).pc = s.pc := rfl
@[simp] theorem State.loadText_text (s : State) (bs : List Byte) :
    (s.loadText bs).text = ⟨s.pc.toNat, s.pc.toNat + bs.length⟩ := rfl
@[simp] theorem State.loadText_mem (s : State) (bs : List Byte) :
    (s.loadText bs).mem = s.mem.writeBytes s.pc.toNat bs := rfl

theorem State.eax_selectLeaf (s : State) (i : Instr) : (s.selectLeaf (some i)).eax = leafSelector i := by
  simp [State.eax, State.selectLeaf, BitVec.setWidth_or, BitVec.setWidth_and]

/-- The loaded bytes, and no others, are fetched (log entry 17). -/
theorem State.fetchBytes_loadText {s : State} (hm : s.mem.wf = true) (bs : List Byte) (i : Option Instr) :
    ((s.loadText bs).selectLeaf i).fetchBytes = bs := by
  simp [State.fetchBytes, Memory.readBytes_writeBytes bs _ _ hm]

/-- Settles O6: the word is loaded as the encoding of EGETKEY, which the next step fetches and decodes. -/
theorem loadedEncluRuns : Obligations.LoadedEncluRuns := by
  intro s hm
  rw [s.withFetchWord_enclu]
  refine ⟨State.eax_selectLeaf _ _, by simp, step_of_decode_ok ?_ (rest := []) ?_⟩
  · simp [State.pcInText_iff, encode]
  · rw [State.fetchBytes_loadText hm]
    exact decode_encode .egetkey []

end Sys2Proof.Machine
end

section

/-! ### Premises, refusals, the launched step and reset (R22, R97, R98, R220, R222, R225) -/

namespace Sys2Proof.Machine

/-- R98: the first test of the instruction. -/
theorem execEgetkey_of_not_inEnclave {s : State} (h : ¬ s.InEnclave) : execEgetkey s = .refused .notInEnclave := by
  rw [execEgetkey, if_pos]
  rwa [Bool.not_eq_true', ← Bool.not_eq_true, Bool.and_eq_true]

/-- R97: the second test of the instruction. -/
theorem execEgetkey_of_not_leafSelected {s : State} (hin : s.InEnclave) (h : ¬ s.LeafSelected) :
    execEgetkey s = .refused .otherLeaf := by
  have hleaf : s.eax ≠ leafSelector .egetkey := mt s.leafSelected_iff.mp h
  simp [execEgetkey, hin.1, hin.2, hleaf]

/-- Settles O8: either bit clear is not being in an enclave. -/
theorem refusedOutsideEnclave : Obligations.RefusedOutsideEnclave := by
  intro s h
  refine execEgetkey_of_not_inEnclave fun ⟨hsgx, hmode⟩ => ?_
  simp [hsgx, hmode] at h

/-- Settles O9: the condition is `LeafSelected` denied. -/
theorem otherLeafRefused : Obligations.OtherLeafRefused := fun _ hin h => execEgetkey_of_not_leafSelected hin h

/-- R225: what a completion puts in RAX does not select the leaf. -/
theorem not_leafSelected_of_execEgetkey {s t : State} (h : execEgetkey s = .next t) : ¬ t.LeafSelected := by
  rw [State.LeafSelected]
  obtain ⟨-, hr⟩ | ⟨-, c, hr⟩ := execEgetkey_zf_rax h <;> rw [hr]
  · decide
  · cases c <;> decide

/-- Settles O10: the completion stays in the enclave with another leaf in RAX, so the next step has no completion. -/
theorem noSecondKeyWithoutReload : Obligations.NoSecondKeyWithoutReload := by
  intro s t h
  obtain ⟨hacc, -⟩ := execEgetkey_next h
  have henv := execEgetkey_sameEnvironment h
  have hin : t.InEnclave := ⟨henv.cfg ▸ hacc.inEnclave.1, henv.enclaveMode ▸ hacc.inEnclave.2⟩
  have hleaf := execEgetkey_of_not_leafSelected hin (not_leafSelected_of_execEgetkey h)
  refine ⟨hleaf, fun u hu => ?_⟩
  obtain ⟨-, hnext, -⟩ := step_next hu
  exact absurd (hleaf.symm.trans hnext) nofun

theorem State.returnError_of_not_pcOk {s : State} (hpc : ¬ s.PcOk) (e : ErrorCode) (es : List ErrorCode) :
    s.returnError e es = .refused .pcOutOfRange :=
  State.retire_of_not (by simpa [← s.pcAdvances_iff] using hpc)

theorem State.returnKey_of_not_pcOk {s : State} (hpc : ¬ s.PcOk) (k : KeyName) :
    s.returnKey k = .refused .pcOutOfRange :=
  State.retire_of_not (by simpa [← s.pcAdvances_iff] using hpc)

/-- R22: past the refusal of R127, every arm of the CASE ends in `retire`. -/
theorem State.dispatchKeyName_of_not_pcOk {s : State} (hpc : ¬ s.PcOk)
    (hl : s.request.keyName = KeyName.code .einittoken → s.LaunchSigner) :
    s.dispatchKeyName = .refused .pcOutOfRange := by
  unfold State.dispatchKeyName
  split
  · exact s.returnError_of_not_pcOk hpc _ _
  · rename_i k hk
    have hsigner : s.launchSignerUnknown k = false := (s.launchSignerUnknown_eq_false k).mpr fun hkey =>
      hl (((keyNameOf_eq_some _ k).mp hk).trans (congrArg KeyName.code hkey))
    rw [hsigner, if_neg Bool.false_ne_true]
    split
    · exact s.returnError_of_not_pcOk hpc _ _
    · exact s.returnKey_of_not_pcOk hpc k

/-- Settles O11: the premises and fault tests pass, and no arm of the CASE can advance `pc`. -/
theorem pcAtTopRefused : Obligations.PcAtTopRefused := fun _ hin hleaf hop hfmt hpc hl =>
  (execEgetkey_dispatch hin hleaf hop hfmt).trans (State.dispatchKeyName_of_not_pcOk hpc hl)

/-- An accepted request that R127 does not refuse completes, whatever its KEYNAME. -/
theorem State.Accepted.completes {s : State} (ha : s.Accepted)
    (hl : s.request.keyName = KeyName.code .einittoken → s.LaunchSigner) : ∃ t, execEgetkey s = .next t := by
  by_cases hk : ∃ k : KeyName, s.request.keyName = k.code
  · obtain ⟨k, hk⟩ := hk
    obtain ⟨t, ht, -⟩ := execEgetkey_zf_iff ha hk fun hkey => hl (hkey ▸ hk)
    exact ⟨t, ht⟩
  · obtain ⟨t, ht, -⟩ := execEgetkey_of_invalid_keyName ha (not_exists.mp hk)
    exact ⟨t, ht⟩

/-- Settles O45: the bytes decode to EGETKEY, the accepted request completes, and no overlap refuses the step. -/
theorem launchedStepCompletes : Obligations.LaunchedStepCompletes := by
  intro s hin hleaf hdisj hl hop hfmt hpc hlo hhi h0 h1 h2
  obtain ⟨t, ht⟩ := State.Accepted.completes ⟨hin, hleaf, hop, hfmt, hpc⟩ hl
  have hover := State.not_overlaps_of_textDisjoint hdisj
  refine ⟨t, ?_⟩
  rw [encluBytesAtPcRun s hlo hhi h0 h1 h2, ← s.guardText_eq, exec, ht, State.guardText, hover,
    if_neg Bool.false_ne_true]

/-- Settles O43: the reset state lists no memory, and `pc` lies outside its empty text. -/
theorem resetMeetsInv : Obligations.ResetMeetsInv := by
  refine ⟨⟨rfl, nofun, ?_⟩, ⟨rfl, rfl⟩, rfl, (stepOutsideTextRefused State.reset).2 (.inr ?_)⟩
  · show canonical State.reset.pc = true
    decide
  · decide

end Sys2Proof.Machine
end

section

/-! ### Faults and the KSS gate (R121, R152, R190) -/

namespace Sys2Proof.Machine

/-- Settles O18: the reported fault is one of the list, and an accepted request has none to report. -/
theorem onlyTwoFaultClasses : Obligations.OnlyTwoFaultClasses := by
  intro s f h
  have hf := firstFault_of_execEgetkey h
  refine ⟨?_, fun hok => absurd (hf.symm.trans (s.egetkeyFaults_none_iff.mpr hok)) nofun⟩
  have hmem := mem_of_firstFault hf
  simp only [State.egetkeyFaults, List.mem_cons, Prod.mk.injEq, List.not_mem_nil, or_false] at hmem
  obtain ⟨-, rfl⟩ | ⟨-, rfl⟩ | ⟨-, rfl⟩ | ⟨-, rfl⟩ | ⟨-, rfl⟩ | ⟨-, rfl⟩ := hmem
  · exact .inl rfl
  · exact .inr (.inl ⟨_, rfl⟩)
  · exact .inl rfl
  · exact .inr (.inr ⟨_, rfl⟩)
  · exact .inl rfl
  · exact .inl rfl

/-- The gate of R121 for an enclave without KSS. -/
theorem State.FormatOk.of_not_kss {s : State} (h : s.FormatOk) (hkss : s.currentSecs.kss = false) :
    (∀ i, 2 ≤ i → i ≤ 5 → s.request.keyPolicy.getLsbD i = false) ∧ s.request.configSvn = 0 :=
  h.kss.resolve_left (by simp [hkss])

/-- R152: with the policy bits of 5:2 clear the seal keys include ISVPRODID and none of the KSS fields. -/
theorem State.dependencies_of_clear_policy {s : State}
    (h : ∀ i, 2 ≤ i → i ≤ 5 → s.request.keyPolicy.getLsbD i = false) {k : KeyName}
    (hk : k = .seal ∨ k = .provisionSeal) :
    (s.dependencies k).isvProdId = s.currentSecs.isvProdId ∧ (s.dependencies k).isvFamilyId = 0 ∧
    (s.dependencies k).isvExtProdId = 0 ∧ (s.dependencies k).configId = 0 ∧ (s.dependencies k).configSvn = 0 := by
  have hprod : s.request.policyNoIsvProdId = false := h 2 (by decide) (by decide)
  have hconfig : s.request.policyConfigId = false := h 3 (by decide) (by decide)
  have hfamily : s.request.policyIsvFamilyId = false := h 4 (by decide) (by decide)
  have hext : s.request.policyIsvExtProdId = false := h 5 (by decide) (by decide)
  rcases hk with rfl | rfl
  · simp [State.dependencies, State.sealDependencies, included, hprod, hconfig, hfamily, hext]
  · simp [State.dependencies, State.provisionSealDependencies, included, hprod, hconfig, hfamily, hext]

/-- Settles O17: without KSS an accepted format has the policy bits and CONFIGSVN zero, and a completion has one. -/
theorem kssGate : Obligations.KssGate := by
  intro s hin hleaf hop hkss
  refine ⟨fun huse => execEgetkey_of_not_formatOk hin hleaf hop fun hfmt => ?_, fun t ht => ?_⟩
  · obtain ⟨hpolicy, hsvn⟩ := hfmt.of_not_kss hkss
    rcases huse with ⟨i, hlo, hhi, hset⟩ | hne
    · exact absurd ((hpolicy i hlo hhi).symm.trans hset) Bool.false_ne_true
    · exact hne hsvn
  · obtain ⟨hacc, -⟩ := execEgetkey_next ht
    obtain ⟨hpolicy, hsvn⟩ := hacc.format.of_not_kss hkss
    exact ⟨hsvn, hpolicy, fun k hk => State.dependencies_of_clear_policy hpolicy hk⟩

end Sys2Proof.Machine
end

section

/-! ### The arms of EINITTOKEN_KEY and of the provisioning keys (R127, R128, R159, R160) -/

namespace Sys2Proof.Machine

/-- R127: the error set of EINITTOKEN_KEY. -/
theorem State.mem_errSet_einittoken (s : State) (e : ErrorCode) : e ∈ s.errSet .einittoken ↔
    (e = .invalidAttribute ∧ s.currentSecs.attributes.getLsbD 5 = false) ∨
    (e = .invalidCpuSvn ∧ s.beyondCpu s.request = true) ∨
    (e = .invalidIsvSvn ∧ s.currentSecs.isvSvn.toNat < s.request.isvSvn.toNat) := by
  simp only [State.errSet, List.mem_append, mem_failing, Bool.not_eq_true', SecsRecord.einittokenKey, beyondIsv_iff,
    or_assoc]

/-- R128, D25: the error sets of the two provisioning keys. -/
theorem State.mem_errSet_provisioning (s : State) {k : KeyName} (hk : k = .provision ∨ k = .provisionSeal)
    (e : ErrorCode) : e ∈ s.errSet k ↔
    (e = .invalidAttribute ∧ s.currentSecs.attributes.getLsbD 4 = false) ∨
    (e = .invalidCpuSvn ∧ s.beyondCpu s.request = true) ∨
    (e = .invalidIsvSvn ∧ (s.currentSecs.isvSvn.toNat < s.request.isvSvn.toNat ∨
      (k = .provisionSeal ∧ s.cfg.provsealChecksConfigsvn = true ∧
        s.currentSecs.configSvn.toNat < s.request.configSvn.toNat))) := by
  rcases hk with rfl | rfl <;>
    simp [State.errSet, mem_failing, SecsRecord.provisionKey, beyondIsv_iff, beyondCfg_iff]

/-- R127 (D24): an EINITTOKEN request of an enclave with the attribute and another signer. -/
theorem execEgetkey_of_not_launchSigner {s : State} (ha : s.Accepted)
    (hk : s.request.keyName = KeyName.code .einittoken) (hl : ¬ s.LaunchSigner) :
    execEgetkey s = .refused .einittokenMrsigner := by
  have hsigner : s.launchSignerUnknown .einittoken = true := by
    rw [← Bool.not_eq_false, s.launchSignerUnknown_eq_false]
    exact fun h => hl (h rfl)
  rw [execEgetkey_dispatch ha.inEnclave ha.leaf ha.operands ha.format, State.dispatchKeyName,
    (keyNameOf_eq_some _ .einittoken).mpr hk]
  simp only [hsigner, if_true]

/-- Settles O29: the attribute with another signer is `LaunchSigner` denied, and every other case completes. -/
theorem einittokenKeyChecks : Obligations.EinittokenKeyChecks := by
  intro s
  refine ⟨s.mem_errSet_einittoken, fun ha hk => ⟨fun hattr hne => ?_, fun hok => ?_⟩⟩
  · exact execEgetkey_of_not_launchSigner ha hk fun hl => hne (hl hattr)
  · refine execEgetkey_zf_iff ha hk fun _ hattr => hok.resolve_left ?_
    exact fun hclear => absurd (hclear.symm.trans hattr) Bool.false_ne_true

/-- Settles O30: the sets are `mem_errSet_provisioning`, and which return ZF tells apart holds of every arm. -/
theorem provisionKeysChecks : Obligations.ProvisionKeysChecks := fun s _ hk =>
  ⟨s.mem_errSet_provisioning hk, fun ha hname =>
    execEgetkey_zf_iff ha hname (by rcases hk with rfl | rfl <;> exact nofun)⟩

/-- R128, D25: when a provisioning key has no error. -/
theorem State.errSet_provisioning_eq_nil (s : State) {k : KeyName} (hk : k = .provision ∨ k = .provisionSeal)
    (hattr : s.currentSecs.attributes.getLsbD 4 = true) (hcpu : s.beyondCpu s.request = false)
    (hisv : s.request.isvSvn.toNat ≤ s.currentSecs.isvSvn.toNat)
    (hcfg : k = .provisionSeal → s.cfg.provsealChecksConfigsvn = true →
      s.request.configSvn.toNat ≤ s.currentSecs.configSvn.toNat) : s.errSet k = [] := by
  refine List.eq_nil_iff_forall_not_mem.mpr fun e he => ?_
  obtain ⟨-, h⟩ | ⟨-, h⟩ | ⟨-, h | ⟨hkey, hparam, h⟩⟩ := (s.mem_errSet_provisioning hk e).mp he
  · exact absurd (h.symm.trans hattr) Bool.false_ne_true
  · exact absurd (hcpu.symm.trans h) Bool.false_ne_true
  · exact absurd h (Nat.not_lt.mpr hisv)
  · exact absurd h (Nat.not_lt.mpr (hcfg hkey hparam))

/-- Settles O25: the error set is empty, and the arm's record is R159's. -/
theorem provisionKeyData : Obligations.ProvisionKeyData := by
  intro s ha hm hk hattr hcpu hisv
  exact execEgetkey_stores_key ha hm hk nofun (s.errSet_provisioning_eq_nil (.inl rfl) hattr hcpu hisv nofun)

/-- Settles O26: the error set is empty, and the arm's record is R160's, its inverted ISVPRODID bit written out. -/
theorem provisionSealKeyData : Obligations.ProvisionSealKeyData := by
  intro s ha hm hk hattr hcpu hisv hcfg
  have he := s.errSet_provisioning_eq_nil (.inr rfl) hattr hcpu hisv fun _ => hcfg
  obtain ⟨t, ht, hkey⟩ := execEgetkey_stores_key ha hm hk nofun he
  simp only [State.dependencies, State.provisionSealDependencies, included_not] at hkey
  exact ⟨t, ht, hkey⟩

/-- D21: a CPUSVN is not beyond itself, whatever the open order is. -/
theorem cpusvnBeyond_self (c : BitVec 128) : cpusvnBeyond c c = false := by
  simp [cpusvnBeyond]

/-- Which requests have the CPUSVN error (R125 to R128). -/
theorem State.invalidCpuSvn_mem_errSet (s : State) (k : KeyName) : .invalidCpuSvn ∈ s.errSet k ↔
    k ≠ .report ∧ s.beyondCpu s.request = true := by
  cases k <;> simp [State.errSet, mem_failing]

/-- Which requests have the ISVSVN error (R125 to R128). -/
theorem State.invalidIsvSvn_mem_errSet (s : State) (k : KeyName) : .invalidIsvSvn ∈ s.errSet k ↔
    k ≠ .report ∧ s.currentSecs.isvSvn.toNat < s.request.isvSvn.toNat ∨
    (k = .seal ∨ k = .provisionSeal ∧ s.cfg.provsealChecksConfigsvn = true) ∧
      s.currentSecs.configSvn.toNat < s.request.configSvn.toNat := by
  cases k <;> simp [State.errSet, mem_failing, beyondIsv_iff, beyondCfg_iff]

/-- Settles O34: a success has an empty error set, so no comparison of its arm failed. -/
theorem noKeyBeyondCurrentSvn : Obligations.NoKeyBeyondCurrentSvn := by
  refine ⟨cpusvnBeyond_self, fun s t h hz => ?_⟩
  obtain ⟨k, hk, -, he, -⟩ := execEgetkey_next_of_zf_clear h hz
  have hname {k' : KeyName} (hk' : s.request.keyName = k'.code) : k = k' := KeyName.code_injective (hk.symm.trans hk')
  have hcpu : ErrorCode.invalidCpuSvn ∉ s.errSet k := by simp [he]
  have hisv : ErrorCode.invalidIsvSvn ∉ s.errSet k := by simp [he]
  simp only [s.invalidCpuSvn_mem_errSet, not_and, Bool.not_eq_true] at hcpu
  simp only [s.invalidIsvSvn_mem_errSet, not_or, not_and, not_lt] at hisv
  obtain ⟨hisv, hcfg⟩ := hisv
  refine ⟨fun hne => ?_, fun hseal => hcfg ?_⟩
  · have hkey : k ≠ .report := fun hkey => hne (hkey ▸ hk)
    exact ⟨hcpu hkey, hisv hkey⟩
  · exact hseal.imp hname (And.imp hname id)

end Sys2Proof.Machine
end

section

/-! ### Operands (R38, R60, R61, R73) -/

namespace Sys2Proof.Machine

/-- Settles O37: every field is read by `Memory.field`, whose bits `getLsbD_field` gives. -/
theorem keyrequestLayout : Obligations.KeyrequestLayout := by
  intro m la
  have layout (off n : Nat) {w : Nat} (hw : w = 8 * n) (i : Nat) (hi : i < w) :
      (m.field la off n w).getLsbD i = (m.read (la + off + i / 8)).getLsbD (i % 8) :=
    m.getLsbD_field la off (hw ▸ hi) hi
  exact ⟨layout 0 2 rfl, layout 2 2 rfl, layout 4 2 rfl, layout 6 2 rfl, layout 8 16 rfl, layout 24 16 rfl,
    layout 40 32 rfl, layout 72 4 rfl, layout 76 2 rfl, layout 78 434 rfl⟩

/-- R60, G18: in Mode64 the register is the linear address. -/
theorem State.linearAddress_of_mode64 {s : State} (hm : s.cfg.mode = .mode64) (r : Word) : s.linearAddress r = r := by
  simp [State.linearAddress, hm]

/-- Settles O38: the linear address is as its two cases, and the validity test its definition by mode. -/
theorem operandAddressesByMode : Obligations.OperandAddressesByMode := by
  intro s r n hn
  refine ⟨fun hm => ⟨State.linearAddress_of_mode64 hm r, ?_⟩, fun hm => ⟨State.toNat_linearAddress_of_prot32 hm r, ?_⟩⟩
  · simp [State.addressValid, State.effectiveAddress, hm]
  · simp only [State.addressValid, State.effectiveAddress, hm, BitVec.toNat_setWidth, decide_eq_true_eq]
    omega

/-- Settles O39: bits 63:47 are the quotient by 2^47, which is 0 or 2^17 - 1. -/
theorem canonicalAddresses : Obligations.CanonicalAddresses := by
  intro a
  have hbits : (a.extractLsb' 47 17).toNat = a.toNat / 2 ^ 47 := by
    rw [BitVec.extractLsb'_toNat, Nat.shiftRight_eq_div_pow, Nat.mod_eq_of_lt]
    have := a.isLt
    omega
  have := a.isLt
  rw [canonical, Bool.or_eq_true, beq_iff_eq, beq_iff_eq, ← BitVec.toNat_inj, ← BitVec.toNat_inj, hbits,
    BitVec.toNat_allOnes, show (0 : BitVec 17).toNat = 0 from rfl]
  omega

/-- Settles O40: LA_OUT is LA_REQ, the key is of the state before, and the write stays in the 16 bytes. -/
theorem overlappingOperands : Obligations.OverlappingOperands := by
  intro s t hm hsame h hz
  have hla : s.laOut = s.laReq := congrArg s.linearAddress hsame
  obtain ⟨k, hk, -, -, hc⟩ := execEgetkey_next_of_zf_clear h hz
  refine ⟨k, hk, ?_, fun i hlo _ => execEgetkey_read_outside h hm (.inr (by rw [hla]; omega))⟩
  rw [← hla]
  exact hc.ofNat_readLE hm

end Sys2Proof.Machine
end

section

/-! ### The inputs of the key (R161, R166) -/

namespace Sys2Proof.Machine

/-- The masked attributes agree when the masks do and the attributes do where that mask passes them (R122). -/
theorem tmpAttributes_congr {r r' : KeyRequest} {c c' : SecsRecord} (hmask : r.attributeMask = r'.attributeMask)
    (h : (r.attributeMask ||| 3) &&& c.attributes = (r.attributeMask ||| 3) &&& c'.attributes) :
    tmpAttributes r c = tmpAttributes r' c' := by
  rw [tmpAttributes, tmpAttributes, ← hmask]
  exact h

/-- The masked MISCSELECT values agree when the masks do and MISCSELECT does where that mask passes it (R122). -/
theorem tmpMiscSelect_congr {r r' : KeyRequest} {c c' : SecsRecord} (hmask : r.miscMask = r'.miscMask)
    (h : r.miscMask &&& c.miscSelect = r.miscMask &&& c'.miscSelect) : tmpMiscSelect r c = tmpMiscSelect r' c' := by
  rw [tmpMiscSelect, tmpMiscSelect, ← hmask]
  exact h

section
variable {r r' : KeyRequest} (hpolicy : r.keyPolicy = r'.keyPolicy) {w : Nat} {v v' : BitVec w}
include hpolicy

/-- A temporary that policy bit `i` includes (R152). -/
theorem included_policy_congr (i : Nat) (h : r.keyPolicy.getLsbD i = true → v = v') :
    included (r.keyPolicy.getLsbD i) v = included (r'.keyPolicy.getLsbD i) v' :=
  included_congr (congrArg (BitVec.getLsbD · i) hpolicy) h

/-- A temporary that policy bit `i` excludes (R152). -/
theorem included_not_policy_congr (i : Nat) (h : r.keyPolicy.getLsbD i = false → v = v') :
    included (!r.keyPolicy.getLsbD i) v = included (!r'.keyPolicy.getLsbD i) v' :=
  included_congr (congrArg (fun p => !BitVec.getLsbD p i) hpolicy) fun hb => h (Bool.not_eq_true' _ ▸ hb)

end

section
variable {s s' : State}

/-- The SEAL_KEY column of R161. -/
theorem SameKeyInputs.sealDependencies_eq (h : SameKeyInputs s s' .seal) :
    s.sealDependencies s.request s.currentSecs = s'.sealDependencies s'.request s'.currentSecs := by
  obtain ⟨-, hepoch, hfuses, hisv, hcpu, hid, hmask, hmisc, hpolicy, hcfgSvn, hattr, hsel, hpad, hencl, hsigner, hprod,
    hcfg, hfamily, hext⟩ := h
  simp only [State.sealDependencies, KeyDependencies.mk.injEq, true_and]
  exact ⟨included_policy_congr hpolicy 4 hfamily, included_policy_congr hpolicy 5 hext,
    included_not_policy_congr hpolicy 2 hprod, hisv, hepoch, tmpAttributes_congr hmask hattr, hmask,
    included_policy_congr hpolicy 0 hencl, included_policy_congr hpolicy 1 hsigner, hid, hfuses, hcpu, hpad,
    tmpMiscSelect_congr hmisc hsel, congrArg (~~~·) hmisc, hpolicy, included_policy_congr hpolicy 3 hcfg,
    included_policy_congr hpolicy 3 hcfgSvn⟩

/-- The REPORT_KEY column of R161. -/
theorem SameKeyInputs.reportDependencies_eq (h : SameKeyInputs s s' .report) :
    s.reportDependencies s.request s.currentSecs = s'.reportDependencies s'.request s'.currentSecs := by
  obtain ⟨-, hepoch, hfuses, hcpu, hid, hattr, hmisc, hencl, hcfg, hcfgSvn⟩ := h
  rw [State.reportDependencies, hepoch, hattr, hencl, hid, hfuses, hcpu, hmisc, hcfg, hcfgSvn]
  rfl

/-- The EINITTOKEN_KEY column of R161. -/
theorem SameKeyInputs.einittokenDependencies_eq (h : SameKeyInputs s s' .einittoken) :
    s.einittokenDependencies s.request s.currentSecs = s'.einittokenDependencies s'.request s'.currentSecs := by
  obtain ⟨-, hepoch, hfuses, hisv, hcpu, hid, hattr, hsel, hprod, hsigner, hpad⟩ := h
  have hattr : tmpAttributes s.request s.currentSecs = tmpAttributes s'.request s'.currentSecs := hattr
  have hsel : tmpMiscSelect s.request s.currentSecs = tmpMiscSelect s'.request s'.currentSecs := hsel
  rw [State.einittokenDependencies, hprod, hisv, hepoch, hattr, hsigner, hid, hfuses, hcpu, hpad, hsel]
  rfl

/-- The PROVISION_KEY column of R161. -/
theorem SameKeyInputs.provisionDependencies_eq (h : SameKeyInputs s s' .provision) :
    provisionDependencies s.request s.currentSecs = provisionDependencies s'.request s'.currentSecs := by
  obtain ⟨-, hisv, hcpu, hmask, hmisc, hattr, hsel, hprod, hsigner, hpad⟩ := h
  rw [provisionDependencies, hprod, hisv, tmpAttributes_congr hmask hattr, hmask, hsigner, hcpu, hpad,
    tmpMiscSelect_congr hmisc hsel, hmisc]
  rfl

/-- The PROVISION_SEAL_KEY column of R161. -/
theorem SameKeyInputs.provisionSealDependencies_eq (h : SameKeyInputs s s' .provisionSeal) :
    s.provisionSealDependencies s.request s.currentSecs = s'.provisionSealDependencies s'.request s'.currentSecs := by
  obtain ⟨-, hfuses, hisv, hcpu, hmask, hmisc, hpolicy, hcfgSvn, hattr, hsel, hpad, hsigner, hprod, hcfg, hfamily,
    hext⟩ := h
  simp only [State.provisionSealDependencies, KeyDependencies.mk.injEq, true_and]
  exact ⟨included_policy_congr hpolicy 4 hfamily, included_policy_congr hpolicy 5 hext,
    included_not_policy_congr hpolicy 2 hprod, hisv, tmpAttributes_congr hmask hattr, hmask, hsigner, hfuses, hcpu,
    hpad, tmpMiscSelect_congr hmisc hsel, congrArg (~~~·) hmisc, hpolicy, included_policy_congr hpolicy 3 hcfg,
    included_policy_congr hpolicy 3 hcfgSvn⟩

/-- R161: every column names PROC_SECRET. -/
theorem SameKeyInputs.procSecret_eq {k : KeyName} (h : SameKeyInputs s s' k) :
    s.cfg.procSecret = s'.cfg.procSecret := by
  cases k <;> exact h.1

/-- R161: states that agree on the inputs of a key derive it from the same data. -/
theorem SameKeyInputs.dependencies_eq {k : KeyName} (h : SameKeyInputs s s' k) : s.dependencies k = s'.dependencies k :=
  match k with
  | .seal => h.sealDependencies_eq
  | .report => h.reportDependencies_eq
  | .einittoken => h.einittokenDependencies_eq
  | .provision => h.provisionDependencies_eq
  | .provisionSeal => h.provisionSealDependencies_eq

theorem SameKeyInputs.outputKey_eq {k : KeyName} (h : SameKeyInputs s s' k) : s.outputKey k = s'.outputKey k := by
  rw [State.outputKey, State.outputKey, h.procSecret_eq, h.dependencies_eq]

/-- A completion for a key name with ZF clear stored that name's key (R130). -/
theorem keyCompletion_of_zf_clear {t : State} {k : KeyName} (h : execEgetkey s = .next t) (hz : t.flag .zf = false)
    (hk : s.request.keyName = k.code) : KeyCompletion s t k := by
  obtain ⟨k', hk', -, -, hc⟩ := execEgetkey_next_of_zf_clear h hz
  obtain rfl : k' = k := KeyName.code_injective (hk'.symm.trans hk)
  exact hc

end

/-- Settles O41: both runs store the bytes of `outputKey`, which is one key. -/
theorem keyDependsOnlyOnListedInputs : Obligations.KeyDependsOnlyOnListedInputs := by
  intro s s' t t' k hm hm' h h' hz hz' hk hk' hsame i hi
  rw [(keyCompletion_of_zf_clear h hz hk).read hm hi, (keyCompletion_of_zf_clear h' hz' hk').read hm' hi,
    hsame.outputKey_eq]

end Sys2Proof.Machine
end
